-- ==== Sys2Proof/Word.lean ====
section
/-!
DEFINITION. The words of SFCC: bytes, 32-bit words, and the 16-byte block as four columns of four bytes
(spec/00_scope.md R8, spec/10_state.md R35).
-/

namespace Sys2Proof

/-- A byte, an integer in [0, 255] (R8). -/
abbrev Byte := BitVec 8

/-- A 32-bit word: a command word, a register of the host port, a word of the round-key schedule (R8). -/
abbrev Word := BitVec 32

/-- One column of the block state: `r0` is row 0, the top row (R35, R200). -/
structure Col where
  r0 : Byte
  r1 : Byte
  r2 : Byte
  r3 : Byte
  deriving DecidableEq, Repr

/-- A 16-byte block as 4 columns of 4 bytes, column-major: byte k of the block is row k mod 4 of column
k div 4 (R35, R200). The block state S, CHAIN and IV are blocks. -/
structure Block where
  c0 : Col
  c1 : Col
  c2 : Col
  c3 : Col
  deriving DecidableEq, Repr

/-- The column of zero bytes. -/
abbrev Col.zero : Col := ⟨0, 0, 0, 0⟩

/-- The block of zero bytes. -/
abbrev Block.zero : Block := ⟨Col.zero, Col.zero, Col.zero, Col.zero⟩

/-- The round-key schedule W: 60 words of 32 bits (spec/10_state.md R34). -/
abbrev Schedule := Vector Word 60

/-- A cipher key: 32 bytes (spec/10_state.md R31). -/
abbrev Key := Vector Byte 32

end Sys2Proof
end

