-- ==== Sys2Proof/Config.lean ====
section
/-!
DEFINITION. What an implementation fixes (spec/00_scope.md R6, R7) and the values the spec leaves open. The open
values are opaque: they have no body, so no proof can learn a value of one.
-/

namespace Sys2Proof

/-- KEY_BYTES (R6). -/
abbrev Config.keyBytes : Nat := 32

/-- IV_BYTES (R6). -/
abbrev Config.ivBytes : Nat := 16

/-- BLOCK_BYTES, and PAD_BLOCK (R6). -/
abbrev Config.blockBytes : Nat := 16

/-- The parameters a model of SFCC takes as an argument of its configuration (R7). -/
structure Config where
  /-- BUF_BYTES, the size of IN_BUF and of OUT_BUF (R7, D3). -/
  bufBytes : Nat
  deriving DecidableEq, Repr

/-- R7: BUF_BYTES is a multiple of 16 with 64 <= BUF_BYTES <= 65536. -/
abbrev Config.legal (c : Config) : Prop :=
  c.bufBytes % 16 = 0 ∧ 64 ≤ c.bufBytes ∧ c.bufBytes ≤ 65536

/-- DESIGN CHOICE (log 1): the configuration of `State.reset`. R7 leaves BUF_BYTES open; 4096 is the size the
vectors of spec/95_test_vectors.md use. -/
def Config.vectors : Config := ⟨4096⟩

/-- SFCC_BASE, the base address the platform chooses (spec/20_memory.md R81, U11). Open (log 2). -/
opaque Config.sfccBase : Nat

/-- The platform address of host port offset `off` (R70: offsets are relative to the base). -/
def Config.platformAddr (off : Nat) : Nat := Config.sfccBase + off

/-- A free byte: what a buffer byte not written since reset reads as (spec/20_memory.md R73, U1). The argument is
a counter that every draw advances, so two reads may differ (log 7, log 18). -/
opaque Config.freeByte : Nat → Byte

/-- A free input: what a running command sees of IN[0..IN_LEN) once the host has written IN_BUF or IN_LEN while it
ran (spec/70_reset_and_hazards.md R411). The argument is the counter of draws (log 10, log 18). -/
opaque Config.freeInput : Nat → List Byte

/-- A free word: what a name stands for that no read of the host program has assigned (spec/30_encoding.md R130;
log 5). The argument is the name. -/
opaque Config.freeName : List Char → Word

end Sys2Proof
end

