-- ==== Sys2Proof/Syntax.lean ====
section
/-!
DEFINITION. The commands of SFCC: one constructor per row of spec/opcode_table.json (spec/30_encoding.md R102).
A word that is no legal command is not an instruction; the decoder names why (Decode.lean, R104).
-/

namespace Sys2Proof

/-- A legal command word, decoded (R102, R105). The operand fields are unsigned bytes (R101). -/
inductive Instr where
  /-- NOP (R330). -/
  | nop
  /-- NEW_CIPHER klen, ivlen (R186). -/
  | newCipher (klen ivlen : Byte)
  /-- ENCRYPT (R336). -/
  | encrypt
  /-- DECRYPT (R339). -/
  | decrypt
  /-- ENC_BLOCK (R220). -/
  | encBlock
  /-- DEC_BLOCK (R222). -/
  | decBlock
  /-- CBC_ENC (R266). -/
  | cbcEnc
  /-- CBC_DEC (R268). -/
  | cbcDec
  /-- PAD (R284). -/
  | pad
  /-- UNPAD (R286). -/
  | unpad
  /-- B64_ENC (R306). -/
  | b64Enc
  /-- B64_DEC (R314). -/
  | b64Dec
  /-- GFMUL a, b (R160). -/
  | gfmul (a b : Byte)
  deriving DecidableEq, Repr

end Sys2Proof
end

