-- ==== Sys2Proof/WellFormed.lean ====
section
/-!
DEFINITION. What makes a command word legal: the three checks of spec/30_encoding.md R103, over the four fields
of the one format (R100). An `Instr` has no ill-formed terms: its operand fields are bytes, and NEW_CIPHER and
GFMUL are legal with any A and B (R103), so well-formedness is a property of words.
-/

namespace Sys2Proof

/-- OPC, bits 7:0 of a command word (R100). -/
def Word.opc (w : Word) : Byte := w.extractLsb' 0 8

/-- Operand A, bits 15:8 of a command word (R100). -/
def Word.opA (w : Word) : Byte := w.extractLsb' 8 8

/-- Operand B, bits 23:16 of a command word (R100). -/
def Word.opB (w : Word) : Byte := w.extractLsb' 16 8

/-- RSV, bits 31:24 of a command word (R100). -/
def Word.rsv (w : Word) : Byte := w.extractLsb' 24 8

/-- The opcodes of R102; every other OPC value is reserved. -/
def listedOpcodes : List Byte :=
  [0x00, 0x01, 0x02, 0x03, 0x10, 0x11, 0x12, 0x13, 0x14, 0x15, 0x16, 0x17, 0x18]

/-- The opcodes whose commands take operands: NEW_CIPHER and GFMUL (R101, R103). -/
def operandOpcodes : List Byte := [0x01, 0x18]

/-- First check of R103: word[31:24] = 0. -/
def Word.rsvClear (w : Word) : Bool := w.rsv == 0

/-- Second check of R103: word[7:0] is an opcode listed in R102. -/
def Word.opcListed (w : Word) : Bool := listedOpcodes.contains w.opc

/-- Third check of R103: if OPC is neither NEW_CIPHER nor GFMUL, then A = 0 and B = 0. -/
def Word.operandsFit (w : Word) : Bool :=
  operandOpcodes.contains w.opc || (w.opA == 0 && w.opB == 0)

/-- `legal(word)` of R103. -/
def Word.legal (w : Word) : Bool := w.rsvClear && w.opcListed && w.operandsFit

end Sys2Proof
end

