-- ==== Sys2Proof/Decode.lean ====
section
/-!
DEFINITION. Decoding and encoding command words (spec/30_encoding.md R100 to R105), and the rows of
spec/opcode_table.json as data.
-/

namespace Sys2Proof

/-- Why a word is illegal (R104). Decoding rejects by one of these names. -/
inductive IllegalWord where
  /-- RSV is nonzero. -/
  | nonzeroRsv
  /-- OPC is none of the opcodes of R102. -/
  | reservedOpcode
  /-- A or B is nonzero with an opcode that takes no operand. -/
  | nonzeroOperand
  deriving DecidableEq, Repr

/-- The opcode map of R102: the command an opcode stands for, with its operands A and B. -/
def instrOf (opc a b : Byte) : Option Instr :=
  if opc = 0x00 then some .nop
  else if opc = 0x01 then some (.newCipher a b)
  else if opc = 0x02 then some .encrypt
  else if opc = 0x03 then some .decrypt
  else if opc = 0x10 then some .encBlock
  else if opc = 0x11 then some .decBlock
  else if opc = 0x12 then some .cbcEnc
  else if opc = 0x13 then some .cbcDec
  else if opc = 0x14 then some .pad
  else if opc = 0x15 then some .unpad
  else if opc = 0x16 then some .b64Enc
  else if opc = 0x17 then some .b64Dec
  else if opc = 0x18 then some (.gfmul a b)
  else none

/-- `decode(word)` of R105: the command of a legal word, or the reason it is illegal. It reads only the word. -/
def decode (w : Word) : Except IllegalWord Instr :=
  if w.rsvClear = false then .error .nonzeroRsv
  else
    match instrOf w.opc w.opA w.opB with
    | none => .error .reservedOpcode
    | some i => if w.operandsFit then .ok i else .error .nonzeroOperand

/-- OPC | A<<8 | B<<16 with RSV = 0 (R100, R131). -/
def commandWord (opc a b : Byte) : Word :=
  opc.setWidth 32 ||| a.setWidth 32 <<< 8 ||| b.setWidth 32 <<< 16

/-- The encoding of a command (R102). -/
def encode : Instr → Word
  | .nop => commandWord 0x00 0 0
  | .newCipher klen ivlen => commandWord 0x01 klen ivlen
  | .encrypt => commandWord 0x02 0 0
  | .decrypt => commandWord 0x03 0 0
  | .encBlock => commandWord 0x10 0 0
  | .decBlock => commandWord 0x11 0 0
  | .cbcEnc => commandWord 0x12 0 0
  | .cbcDec => commandWord 0x13 0 0
  | .pad => commandWord 0x14 0 0
  | .unpad => commandWord 0x15 0 0
  | .b64Enc => commandWord 0x16 0 0
  | .b64Dec => commandWord 0x17 0 0
  | .gfmul a b => commandWord 0x18 a b

/-- One row of spec/opcode_table.json: a word belongs to it when `word & mask = bits` (R105). -/
structure OpcodeRow where
  mask : Word
  bits : Word
  deriving DecidableEq, Repr

/-- The rows of spec/opcode_table.json, in its order. -/
def opcodeTable : List OpcodeRow :=
  [⟨0xffffffff, 0x00⟩, ⟨0xff0000ff, 0x01⟩, ⟨0xffffffff, 0x02⟩, ⟨0xffffffff, 0x03⟩, ⟨0xffffffff, 0x10⟩,
   ⟨0xffffffff, 0x11⟩, ⟨0xffffffff, 0x12⟩, ⟨0xffffffff, 0x13⟩, ⟨0xffffffff, 0x14⟩, ⟨0xffffffff, 0x15⟩,
   ⟨0xffffffff, 0x16⟩, ⟨0xffffffff, 0x17⟩, ⟨0xff0000ff, 0x18⟩]

/-- `word & mask == match` (R105). -/
def OpcodeRow.holds (r : OpcodeRow) (w : Word) : Bool := w &&& r.mask == r.bits

/-- The instruction the decoder reads from an instruction whose `nbits` table bits are `w`. A command word is one
32-bit host write (R106), so its bits are the word's bits and the bits above `nbits` are 0. -/
def decodeTableWord (nbits w : Nat) : Option Instr :=
  match decode (BitVec.ofNat 32 (w % 2 ^ nbits)) with
  | .ok i => some i
  | .error _ => none

end Sys2Proof
end

