-- ==== Sys2Proof/Machine/HostProgram.lean ====
section
/-!
DEFINITION. Host programs: the lines a host runs against the port, the pseudo-instructions and their expansions
(spec/30_encoding.md R130, R131), the turns of the two agents and of the platform, and what a host read returns.
The lines are data; HostText.lean reads them from their text. log 4, log 5.
-/

namespace Sys2Proof.Machine

/-- The name a host program gives to what a read returned (R130). -/
abbrev Name := List Char

/-- The value a host write writes (R130): a number, or a name assigned by an earlier read (as Program 2 of
spec/95_test_vectors.md copies a token). -/
inductive HostValue where
  | lit (v : Word)
  | name (x : Name)
  deriving DecidableEq, Repr

/-- A host operation (R130): one line of a host program. -/
inductive HostLine where
  /-- `name <- MemRead(off, n)`: `rd32` for n = 4, `rd8` for n = 1; every other width is a bus error (R78). -/
  | rd (name : Name) (off n : Nat)
  /-- `MemWrite(off, n, v)`: `wr32` for n = 4, `wr8` for n = 1; every other width is a bus error (R78). -/
  | wr (off n : Nat) (v : HostValue)
  /-- `wait` (R131): read STATUS until BUSY = 0. -/
  | wait
  deriving DecidableEq, Repr

/-- Who moves next. -/
inductive Turn where
  /-- The host performs its next line. -/
  | host
  /-- The core carries its accepted command to completion. -/
  | core
  /-- The platform asserts reset (R400). -/
  | reset
  deriving DecidableEq, Repr

/-- What a host read returned: the line it stands on, the name it assigns, the value, and whether the port answered
BusError (R79). -/
structure Response where
  line : Nat
  name : Name
  value : Word
  busError : Bool
  deriving DecidableEq, Repr

/-! The symbolic offsets of R130, from the map of spec/20_memory.md R71. -/

def offCmd : Nat := 0x00000
def offStatus : Nat := 0x00004
def offInLen : Nat := 0x00008
def offOutLen : Nat := 0x0000C
def offResult : Nat := 0x00010
def offIn : Nat := 0x10000
def offOut : Nat := 0x20000

/-- `wr32 <offset>, <value>` (R130). -/
def wr32 (off : Nat) (v : Word) : HostLine := .wr off 4 (.lit v)

/-- `wr8 <offset>, <value>` (R130). -/
def wr8 (off : Nat) (v : Word) : HostLine := .wr off 1 (.lit v)

/-- `rd32 <offset> -> <name>` (R130). -/
def rd32 (off : Nat) (name : Name) : HostLine := .rd name off 4

/-- `rd8 <offset> -> <name>` (R130). -/
def rd8 (off : Nat) (name : Name) : HostLine := .rd name off 1

/-- `cmd <MNEMONIC> [A, B]` with the mnemonic's opcode: `wr32 CMD, OPC | A<<8 | B<<16` (R131). -/
def cmd (opc a b : Byte) : HostLine := wr32 offCmd (commandWord opc a b)

/-- `run <MNEMONIC> [A, B]`: `cmd` followed by `wait` (R131). -/
def run (opc a b : Byte) : List HostLine := [cmd opc a b, .wait]

/-- `load <offset>, <bytes>`: one `wr8` per byte, at consecutive offsets (R131). -/
def load : Nat → List Byte → List HostLine
  | _, [] => []
  | off, b :: bs => wr8 off (b.setWidth 32) :: load (off + 1) bs

/-- The name `wait` assigns: `L: rd32 STATUS -> t ; if t[0] == 1 goto L` (R131). -/
def waitName : Name := ['t']

end Sys2Proof.Machine
end

