-- ==== Sys2Proof/Machine/State.lean ====
section
/-!
DEFINITION. The state of SFCC (spec/10_state.md R30 to R44, spec/20_memory.md R72), the agents beside it, the
model faults the spec names, and the state after reset (R47). All of it is plain data.
-/

namespace Sys2Proof.Machine

/-- The errors a command can complete with (spec/60_exceptions.md R360). `ErrCode.code` numbers them. -/
inductive ErrCode where
  | invalidKeyLength
  | invalidIvLength
  | invalidCiphertextLength
  | invalidPadding
  | noCipher
  | illegalCommand
  | capacityExceeded
  | invalidInputLength
  deriving DecidableEq, Repr

/-- The model faults the spec names (R361). They are RECORDED in `State.faults` and never cleared; no step ends in
one, because the spec lets the machine go on after each (R79, R411, R413). A claim about a host program takes
"no fault recorded" as a premise. Safe: a claim that needs the premise says so. -/
inductive Fault where
  /-- BusError: recorded by an illegal host access, at the host line named (R79). Safe. -/
  | busError (line : Nat)
  /-- HAZARD_INPUT_WRITE: recorded by a host write to IN_BUF or IN_LEN while BUSY = 1, at the host line named
  (R411). Safe. -/
  | hazardInputWrite (line : Nat)
  /-- HAZARD_UNWRITTEN_INPUT: recorded by a command whose input range holds a byte not written since reset, the
  command named (R413). Safe. -/
  | hazardUnwrittenInput (cmd : Instr)
  deriving DecidableEq, Repr

/-- The reasons a step can refuse. -/
inductive Refusal where
  /-- An instruction that has no meaning yet. Nothing raises it: every instruction has its meaning. Safe. -/
  | notModelled (mnemonic : String)
  deriving DecidableEq, Repr

/-- A byte memory: the cells listed, and what an unlisted address reads as (`none`: not written since reset, no
value, R73; `some v`: that byte). The canonical form is `Mem.wf` (Ops.lean). -/
structure Mem where
  unlisted : Option Byte
  cells : List Host.Cell
  deriving DecidableEq, Repr

/-- The cipher instance (R31 to R34). -/
structure CipherInst where
  key : Key
  iv : Block
  w : Schedule
  /-- CIPHER_VALID (R33). -/
  cv : Bool
  deriving DecidableEq, Repr

/-- The datapath working registers (R35 to R37), never observable. SCRATCH is the byte sequence it holds
(log 12, log 13). -/
structure Work where
  /-- S, the block state (R35). -/
  blk : Block
  /-- CHAIN (R36). -/
  chain : Block
  /-- SCRATCH (R37). -/
  scratch : List Byte
  deriving DecidableEq, Repr

/-- The sequencer (R44). The micro-step position is not held: a core turn runs the whole sequence (log 3). -/
inductive Fsm where
  | idle
  | exec (cmd : Word)
  deriving DecidableEq, Repr

/-- The host agent: the lines still to run, the number of the next one, and what its reads returned, newest first
(R130; log 5). -/
structure HostAgent where
  prog : List HostLine
  line : Nat
  responses : List Response
  deriving DecidableEq, Repr

/-- The state of the machine. -/
structure State where
  /-- BUF_BYTES (R7). No step changes it (log 1). -/
  cfg : Config
  /-- KEY, IV, W, CIPHER_VALID (R31 to R34). -/
  inst : CipherInst
  /-- S, CHAIN, SCRATCH (R35 to R37). -/
  work : Work
  /-- CMD_REG (R39). -/
  cmdReg : Word
  /-- STATUS.DONE (R40). BUSY is `fsm`, CV is `inst.cv`; the word is `State.status` (log 19). -/
  done : Bool
  /-- STATUS.ERR (R40). -/
  err : Bool
  /-- STATUS.ERRCODE (R40). -/
  errCode : BitVec 4
  /-- IN_LEN (R41). -/
  inLen : Word
  /-- OUT_LEN (R42). -/
  outLen : Word
  /-- RESULT (R43). -/
  result : Word
  /-- FSM (R44). -/
  fsm : Fsm
  /-- IN_BUF (R72). -/
  inBuf : Mem
  /-- OUT_BUF (R72). -/
  outBuf : Mem
  /-- The running command's input was written while BUSY = 1 (R411; log 10). -/
  inputChanged : Bool
  /-- The model faults recorded, newest first; never cleared (R79, R411, R413). -/
  faults : List Fault
  /-- The host (R13). -/
  host : HostAgent
  /-- The turns to take next; `State.nextTurn` says what an empty list means (log 4). -/
  turns : List Turn
  /-- How many free values have been drawn; the model's own (log 18). -/
  draws : Nat
  deriving DecidableEq, Repr

/-- A buffer after reset: no byte has a value (R73). -/
def Mem.unwritten : Mem := ⟨none, []⟩

/-- The cipher instance after reset and after a failed NEW_CIPHER: KEY, IV and W zero, CV = 0 (R47, R187). -/
def CipherInst.cleared : CipherInst := ⟨Vector.replicate 32 0, Block.zero, Vector.replicate 60 0, false⟩

/-- DESIGN CHOICE (log 12): the spec leaves S, CHAIN and SCRATCH after reset unspecified (R47). -/
def Work.cleared : Work := ⟨Block.zero, Block.zero, []⟩

/-- The machine right after reset (R47, R400) with buffers of the size given, no host program and no turns
(log 6). -/
def State.resetWith (c : Config) : State where
  cfg := c
  inst := CipherInst.cleared
  work := Work.cleared
  cmdReg := 0
  done := false
  err := false
  errCode := 0
  inLen := 0
  outLen := 0
  result := 0
  fsm := .idle
  inBuf := Mem.unwritten
  outBuf := Mem.unwritten
  inputChanged := false
  faults := []
  host := ⟨[], 0, []⟩
  turns := []
  draws := 0

/-- The machine right after reset (R47), with the buffer size of the spec's vectors (log 1). -/
def State.reset : State := State.resetWith Config.vectors

end Sys2Proof.Machine
end

