-- ==== Sys2Proof/Machine/Flags.lean ====
section
/-!
DEFINITION. The STATUS register and its fields (spec/10_state.md R40), the only flags SFCC has, and the numbers of
the error codes (spec/60_exceptions.md R360).
-/

namespace Sys2Proof.Machine

/-- The code of an error in STATUS.ERRCODE (R360). -/
def ErrCode.code : ErrCode → BitVec 4
  | .invalidKeyLength => 1
  | .invalidIvLength => 2
  | .invalidCiphertextLength => 3
  | .invalidPadding => 4
  | .noCipher => 5
  | .illegalCommand => 6
  | .capacityExceeded => 7
  | .invalidInputLength => 8

/-- STATUS.BUSY: 1 exactly when FSM = EXEC (R40, R44). -/
def State.busy (s : State) : Bool :=
  match s.fsm with
  | .idle => false
  | .exec _ => true

/-- A flag at bit k of a word. -/
def flagBit (b : Bool) (k : Nat) : Word := (if b then 1#32 else 0#32) <<< k

/-- STATUS as the host reads it: BUSY bit 0, DONE bit 1, ERR bit 2, CV bit 3, ERRCODE bits 7:4, the rest 0
(R40). -/
def State.status (s : State) : Word :=
  s.errCode.setWidth 32 <<< 4 ||| flagBit s.inst.cv 3 ||| flagBit s.err 2 ||| flagBit s.done 1 |||
    flagBit s.busy 0

/-- The ERRCODE a completion leaves: 0 on success, else the error's code (R120). -/
def errCodeOf : Option ErrCode → BitVec 4
  | none => 0
  | some e => e.code

end Sys2Proof.Machine
end

