-- ==== Sys2Proof/Machine/Ops.lean ====
section
/-!
DEFINITION. The named operations over memory and registers, the lifecycle of a command, and the reset event
(spec/20_memory.md R72, R73; spec/30_encoding.md R111, R118, R120; spec/60_exceptions.md R370;
spec/70_reset_and_hazards.md R400).
-/

namespace Sys2Proof.Machine

/-! ## Byte memories -/

/-- The canonical form of a memory: addresses strictly rising, and no cell equal to what an unlisted address reads
as. -/
abbrev Mem.wf (m : Mem) : Prop :=
  m.cells.Pairwise (fun x y => x.1 < y.1) ∧ ∀ c ∈ m.cells, m.unlisted ≠ some c.2

/-- The byte at address `a`, or none where it has no value. -/
def Mem.read (m : Mem) (a : Nat) : Option Byte :=
  match m.cells.lookup a with
  | some v => some v
  | none => m.unlisted

/-- The cells with the one at `a` set to `v`, in rising order. -/
def setCell (a : Nat) (v : Byte) : List Host.Cell → List Host.Cell
  | [] => [(a, v)]
  | c :: cs =>
    if c.1 < a then c :: setCell a v cs
    else if c.1 = a then (a, v) :: cs
    else (a, v) :: c :: cs

/-- The cells without the one at `a`. -/
def dropCell (a : Nat) (cs : List Host.Cell) : List Host.Cell := cs.filter fun c => c.1 != a

/-- The memory with byte `v` at address `a`. -/
def Mem.write (m : Mem) (a : Nat) (v : Byte) : Mem :=
  if m.unlisted = some v then { m with cells := dropCell a m.cells }
  else { m with cells := setCell a v m.cells }

/-- The nonzero bytes of a sequence as cells, from address `a`. -/
def cellsFrom : Nat → List Byte → List Host.Cell
  | _, [] => []
  | a, v :: vs => if v = 0 then cellsFrom (a + 1) vs else (a, v) :: cellsFrom (a + 1) vs

/-- The memory whose first bytes are `d` and whose other bytes are 0x00 (R111: OUT[0..len) <- out, the rest 0x00).
-/
def Mem.zeroFilled (d : List Byte) : Mem := ⟨some 0, cellsFrom 0 d⟩

/-! ## Small updates of the state -/

/-- The state with its working registers replaced (R46: they are overwritten freely during a command). -/
def State.putWork (s : State) (k : Work) : State := { s with work := k }

/-- The state with its cipher instance replaced (R186, R187). -/
def State.putInst (s : State) (c : CipherInst) : State := { s with inst := c }

/-- RESULT[7:0] <- r, RESULT[31:8] <- 0 (R43, R160). -/
def State.putResult (s : State) (r : Byte) : State := { s with result := r.setWidth 32 }

/-- All of OUT_BUF and OUT_LEN written: OUT[0..len(out)) <- out, the rest 0x00, OUT_LEN <- len(out) (R111). -/
def State.putOut (s : State) (out : List Byte) : State :=
  { s with outBuf := Mem.zeroFilled out, outLen := BitVec.ofNat 32 out.length }

/-- A model fault recorded (R79, R411, R413). -/
def State.record (s : State) (f : Fault) : State := { s with faults := f :: s.faults }

/-- `k` free values drawn (log 18). -/
def State.drawn (s : State) (k : Nat) : State := { s with draws := s.draws + k }

/-! ## The lifecycle of a command -/

/-- Acceptance of the word `v` (R118). -/
def State.accept (s : State) (v : Word) : State :=
  { s with cmdReg := v, done := false, err := false, errCode := 0, fsm := .exec v, inputChanged := false }

/-- The STATUS and FSM part of a completion: BUSY <- 0, DONE <- 1, ERR and ERRCODE by the outcome, FSM <- IDLE
(R120). -/
def State.finish (s : State) (e : Option ErrCode) : State :=
  { s with done := true, err := e.isSome, errCode := errCodeOf e, fsm := .idle, inputChanged := false }

/-- Which outputs a failing command clears (R370). -/
inductive CmdClass where
  /-- OUT-class (R111): OUT_BUF <- 0x00, OUT_LEN <- 0. -/
  | out
  /-- NEW_CIPHER: KEY, IV, W <- 0, CV <- 0 (R187). -/
  | keyload
  /-- Every other word: nothing. -/
  | plain
  deriving DecidableEq, Repr

/-- What a failing command of the class does to its outputs (R370). -/
def CmdClass.clear (s : State) : CmdClass → State
  | .out => s.putOut []
  | .keyload => s.putInst CipherInst.cleared
  | .plain => s

/-- `raise Error(code)`: the one way a command fails (R370). -/
def State.raiseError (s : State) (c : CmdClass) (e : ErrCode) : State := (c.clear s).finish (some e)

/-- `complete()` with no outputs (R120, R330). -/
def State.complete (s : State) : State := s.finish none

/-- `complete: RESULT <- zext_32(r)` (R120, R160). -/
def State.completeResult (s : State) (r : Byte) : State := (s.putResult r).finish none

/-- `complete: OUT <- out, zero-filled; OUT_LEN <- len(out)` (R111, R120). -/
def State.completeOut (s : State) (out : List Byte) : State := (s.putOut out).finish none

/-- `complete: KEY <- k; IV <- v; W <- w'; CV <- 1` (R120, R186). -/
def State.completeCipher (s : State) (k : Key) (iv : Block) (w : Schedule) : State :=
  (s.putInst ⟨k, iv, w, true⟩).finish none

/-- The outcome of an OUT-class command committed: on success its output, on failure R370; the working registers
are what the command left in them. -/
def State.commitOut (s : State) (k : Work) : Except ErrCode (List Byte) → State
  | .ok out => (s.putWork k).completeOut out
  | .error e => (s.putWork k).raiseError .out e

/-! ## The reset event -/

/-- A reset at any time (R400, R401): every state of SFCC takes its reset value and a running command is abandoned.
The configuration, the host, the turns, the recorded faults and the counter of free values are not SFCC's to reset
(log 14). -/
def State.onReset (s : State) : State :=
  { State.resetWith s.cfg with
    faults := s.faults, host := s.host, turns := s.turns, draws := s.draws }

end Sys2Proof.Machine
end

