-- ==== Sys2Proof/Machine/Operands.lean ====
section
/-!
DEFINITION. The operands of commands: IN_LEN and the input range of IN_BUF (spec/30_encoding.md R101, R110;
spec/20_memory.md R89), and what the rules of OUT-class commands are given.
-/

namespace Sys2Proof.Machine

/-- Some byte of IN[0..k) has not been written since reset (R413). -/
def State.unwrittenBelow (s : State) (k : Nat) : Bool :=
  (List.range k).any fun i => (s.inBuf.read i).isNone

/-- IN[i] as a command reads it: the byte the host wrote; a free byte where it wrote none (R73, R413; log 9) or
where it wrote the input while the command ran (R411; log 10). -/
def State.inByte (s : State) (i : Nat) : Byte :=
  if s.inputChanged then Config.freeByte (s.draws + i)
  else (s.inBuf.read i).getD (Config.freeByte (s.draws + i))

/-- IN[0..k) as a command reads it. -/
def State.inBytes (s : State) (k : Nat) : List Byte := (List.range k).map s.inByte

/-- The length of the part of IN[0..IN_LEN) that lies in IN_BUF. -/
def State.rangeLen (s : State) : Nat := min s.inLen.toNat s.cfg.bufBytes

/-- `n`: IN_LEN as the command sees it, an unsigned 32-bit value (R110, R161); free under R411. -/
def State.inCount (s : State) : Nat :=
  if s.inputChanged then (Config.freeInput s.draws).length else s.inLen.toNat

/-- `inp`: IN[0..n) as the command sees it (R110); free under R411. The rules use it only when n <= BUF_BYTES. -/
def State.input (s : State) : List Byte :=
  if s.inputChanged then Config.freeInput s.draws else s.inBytes s.rangeLen

/-- The input range IN[0..k) of command `i` read: HAZARD_UNWRITTEN_INPUT recorded when it holds an unwritten byte
(R413), and the free values it took counted. DESIGN CHOICE (log 21): the range is judged as it stands at the core's
turn, in which the command reads its input (R118), not at its acceptance. -/
def State.readInput (s : State) (i : Instr) (k : Nat) : State :=
  let s1 := if s.unwrittenBelow k then s.record (.hazardUnwrittenInput i) else s
  if s.unwrittenBelow k || s.inputChanged then s1.drawn (k + 1) else s1

/-- What the rule of an OUT-class command reads: BUF_BYTES, the cipher instance, n, inp, and the working registers
it overwrites. -/
structure Ctx where
  buf : Nat
  inst : CipherInst
  n : Nat
  inp : List Byte
  work : Work

/-- The context of the command that runs in `s`. -/
def State.ctx (s : State) : Ctx := ⟨s.cfg.bufBytes, s.inst, s.inCount, s.input, s.work⟩

/-- An OUT-class command run from its rule: the input read, the rule applied, the outcome committed (R110, R111,
R120). -/
def runOut (i : Instr) (rule : Ctx → Work × Except ErrCode (List Byte)) (s : State) : State :=
  (s.readInput i s.rangeLen).commitOut (rule s.ctx).1 (rule s.ctx).2

end Sys2Proof.Machine
end

