-- ==== Sys2Proof/Machine/Bits.lean ====
section
/-!
DEFINITION. Byte order and byte-sequence helpers: big-endian words inside the cipher (spec/00_scope.md R9,
spec/20_memory.md R74), little-endian words on the host port (R75), blocks as byte sequences (R35, R200).
-/

namespace Sys2Proof

/-- `be_word(b0,b1,b2,b3) = b0<<24 | b1<<16 | b2<<8 | b3` (R9). -/
def beWord (b0 b1 b2 b3 : Byte) : Word :=
  b0.setWidth 32 <<< 24 ||| b1.setWidth 32 <<< 16 ||| b2.setWidth 32 <<< 8 ||| b3.setWidth 32

/-- Byte k of `be_bytes(w) = [w[31:24], w[23:16], w[15:8], w[7:0]]` (R9). -/
def beByte (w : Word) (k : Nat) : Byte := w.extractLsb' (24 - 8 * k) 8

/-- `be_bytes(w)` as a column: the most significant byte is row 0 (R9, R204). -/
def beCol (w : Word) : Col := ⟨beByte w 0, beByte w 1, beByte w 2, beByte w 3⟩

/-- Byte j of a 32-bit host access: bits [8j+7:8j] (R75). -/
def leByte (w : Word) (j : Nat) : Byte := w.extractLsb' (8 * j) 8

/-- The 32-bit host value of four buffer bytes: b0 is bits [7:0] (R75). -/
def leWord (b0 b1 b2 b3 : Byte) : Word :=
  b0.setWidth 32 ||| b1.setWidth 32 <<< 8 ||| b2.setWidth 32 <<< 16 ||| b3.setWidth 32 <<< 24

/-- `rotl8(b, k)`: rotate the byte b left by k bits (spec/40_gf_tables.md R150). -/
def rotl8 (b : Byte) (k : Nat) : Byte := b.rotateLeft k

/-- Byte-wise XOR of two columns (R9). -/
def Col.xor (x y : Col) : Col := ⟨x.r0 ^^^ y.r0, x.r1 ^^^ y.r1, x.r2 ^^^ y.r2, x.r3 ^^^ y.r3⟩

/-- Byte-wise XOR of two blocks (R9). -/
def Block.xor (x y : Block) : Block :=
  ⟨x.c0.xor y.c0, x.c1.xor y.c1, x.c2.xor y.c2, x.c3.xor y.c3⟩

/-- A column with `f` applied to each byte. -/
def Col.map (x : Col) (f : Byte → Byte) : Col := ⟨f x.r0, f x.r1, f x.r2, f x.r3⟩

/-- A block with `f` applied to each byte (the per-byte grouping of R200). -/
def Block.map (x : Block) (f : Byte → Byte) : Block :=
  ⟨x.c0.map f, x.c1.map f, x.c2.map f, x.c3.map f⟩

/-- The bytes of a column, top row first. -/
def Col.toBytes (x : Col) : List Byte := [x.r0, x.r1, x.r2, x.r3]

/-- The bytes of a block: byte k is row k mod 4 of column k div 4 (R35). -/
def Block.toBytes (x : Block) : List Byte :=
  x.c0.toBytes ++ (x.c1.toBytes ++ (x.c2.toBytes ++ x.c3.toBytes))

/-- Four bytes of a sequence as a column, from index k. -/
def Col.ofBytes (d : List Byte) (k : Nat) : Col :=
  ⟨d.getD k 0, d.getD (k + 1) 0, d.getD (k + 2) 0, d.getD (k + 3) 0⟩

/-- The first 16 bytes of a sequence as a block: `S[k] <- b[k]` (R35, R200). -/
def Block.ofBytes (d : List Byte) : Block :=
  ⟨Col.ofBytes d 0, Col.ofBytes d 4, Col.ofBytes d 8, Col.ofBytes d 12⟩

/-- The first `m` blocks of a byte sequence: block i is bytes 16i to 16i+15 (spec/43_cbc.md R260). -/
def blocksOf : Nat → List Byte → List Block
  | 0, _ => []
  | m + 1, d => Block.ofBytes (d.take 16) :: blocksOf m (d.drop 16)

/-- The concatenation of blocks (R260). -/
def bytesOf (bs : List Block) : List Byte := bs.flatMap Block.toBytes

/-- The byte at row r and column c of a block: `S[r + 4*c]` (R35). -/
def Block.at (x : Block) (r c : Nat) : Byte := x.toBytes.getD (r + 4 * c) 0

end Sys2Proof
end

