-- ==== Sys2Proof/Machine/Field.lean ====
section
/-!
DEFINITION. The field GF(2^8) and its multiplier (spec/40_gf_tables.md R140 to R145), and the algebraic form of
the substitution table (R150).
-/

namespace Sys2Proof.Machine

/-- `clmul(a, b)`: the XOR over i in [0,8) with b[i] = 1 of a << i, a 15-bit value (R142). -/
def clmul (a b : Byte) : BitVec 16 :=
  [0, 1, 2, 3, 4, 5, 6, 7].foldl
    (fun v i => if b.getLsbD i then v ^^^ (a.setWidth 16 <<< i) else v) (0 : BitVec 16)

/-- The reduction modulo m(x) = 0x11B: for k from 14 down to 8, if bit k is 1 then value ^ (0x11B << (k - 8))
(R140, R142). -/
def reduce (v : BitVec 16) : Byte :=
  (([14, 13, 12, 11, 10, 9, 8].foldl
    (fun v k => if v.getLsbD k then v ^^^ (0x11B#16 <<< (k - 8)) else v) v)).setWidth 8

/-- `gmul(a, b)`: the product in GF(2^8) (R142). -/
def gmul (a b : Byte) : Byte := reduce (clmul a b)

/-- `xtime(a)`: the product by 0x02 (R143). -/
def xtime (a : Byte) : Byte := (a <<< 1) ^^^ (if a.getLsbD 7 then 0x1B else 0x00)

/-- One of the 8 rounds of R143's shift-and-add form: (p, a, b) after the round. -/
def shiftAddStep (t : Byte × Byte × Byte) : Byte × Byte × Byte :=
  (if t.2.2.getLsbD 0 then t.1 ^^^ t.2.1 else t.1, xtime t.2.1, t.2.2 >>> 1)

/-- The shift-and-add form of the multiplier (R143). -/
def gmulShiftAdd (a b : Byte) : Byte :=
  ([0, 1, 2, 3, 4, 5, 6, 7].foldl (fun t (_ : Nat) => shiftAddStep t) ((0, a, b) : Byte × Byte × Byte)).1

/-- The square of a field element. -/
def gsquare (a : Byte) : Byte := gmul a a

/-- `ginv(a)`: the inverse of a, and ginv(0) = 0 (R145). It is the power a^254, the product of a^2, a^4, ..., a^128
(DEDUCED: the 255 nonzero elements form a group). -/
def ginv (a : Byte) : Byte :=
  let a2 := gsquare a
  let a4 := gsquare a2
  let a8 := gsquare a4
  let a16 := gsquare a8
  let a32 := gsquare a16
  let a64 := gsquare a32
  let a128 := gsquare a64
  gmul a2 (gmul a4 (gmul a8 (gmul a16 (gmul a32 (gmul a64 a128)))))

/-- The affine map of R150. -/
def affine (b : Byte) : Byte := b ^^^ rotl8 b 1 ^^^ rotl8 b 2 ^^^ rotl8 b 3 ^^^ rotl8 b 4 ^^^ 0x63

end Sys2Proof.Machine
end

