-- ==== Sys2Proof/Machine/Rounds.lean ====
section
/-!
DEFINITION. The round operations, the round state machines and the two block transforms
(spec/42_block_transform.md R200 to R213, with 90_conflicts.md C1 and C2).
-/

namespace Sys2Proof.Machine

/-- SubBytes (R201). -/
def subBytes (s : Block) : Block := s.map sbox

/-- InvSubBytes (R205). -/
def invSubBytes (s : Block) : Block := s.map invSbox

/-- ShiftRows: s'(r, c) = s(r, (c + r) mod 4) (R202). -/
def shiftRows (s : Block) : Block :=
  ⟨⟨s.c0.r0, s.c1.r1, s.c2.r2, s.c3.r3⟩, ⟨s.c1.r0, s.c2.r1, s.c3.r2, s.c0.r3⟩,
   ⟨s.c2.r0, s.c3.r1, s.c0.r2, s.c1.r3⟩, ⟨s.c3.r0, s.c0.r1, s.c1.r2, s.c2.r3⟩⟩

/-- InvShiftRows: s'(r, c) = s(r, (c - r) mod 4) (R206). -/
def invShiftRows (s : Block) : Block :=
  ⟨⟨s.c0.r0, s.c3.r1, s.c2.r2, s.c1.r3⟩, ⟨s.c1.r0, s.c0.r1, s.c3.r2, s.c2.r3⟩,
   ⟨s.c2.r0, s.c1.r1, s.c0.r2, s.c3.r3⟩, ⟨s.c3.r0, s.c2.r1, s.c1.r2, s.c0.r3⟩⟩

/-- One column of MixColumns: the matrix of R203 times the column vector. -/
def mixCol (a : Col) : Col :=
  ⟨gmul 2 a.r0 ^^^ gmul 3 a.r1 ^^^ a.r2 ^^^ a.r3,
   a.r0 ^^^ gmul 2 a.r1 ^^^ gmul 3 a.r2 ^^^ a.r3,
   a.r0 ^^^ a.r1 ^^^ gmul 2 a.r2 ^^^ gmul 3 a.r3,
   gmul 3 a.r0 ^^^ a.r1 ^^^ a.r2 ^^^ gmul 2 a.r3⟩

/-- One column of InvMixColumns: the inverse mix matrix of R207 times the column vector. -/
def invMixCol (a : Col) : Col :=
  ⟨gmul 14 a.r0 ^^^ gmul 11 a.r1 ^^^ gmul 13 a.r2 ^^^ gmul 9 a.r3,
   gmul 9 a.r0 ^^^ gmul 14 a.r1 ^^^ gmul 11 a.r2 ^^^ gmul 13 a.r3,
   gmul 13 a.r0 ^^^ gmul 9 a.r1 ^^^ gmul 14 a.r2 ^^^ gmul 11 a.r3,
   gmul 11 a.r0 ^^^ gmul 13 a.r1 ^^^ gmul 9 a.r2 ^^^ gmul 14 a.r3⟩

/-- MixColumns (R203). -/
def mixColumns (s : Block) : Block := ⟨mixCol s.c0, mixCol s.c1, mixCol s.c2, mixCol s.c3⟩

/-- InvMixColumns (R207). -/
def invMixColumns (s : Block) : Block :=
  ⟨invMixCol s.c0, invMixCol s.c1, invMixCol s.c2, invMixCol s.c3⟩

/-- W[i]; the round operations read i < 60 only (R204). -/
def schedWord (w : Schedule) (i : Nat) : Word := w.toList.getD i 0

/-- Round key r as a block: word W[4r + c] goes to column c, most significant byte in row 0 (R182, R204). -/
def roundKey (w : Schedule) (r : Nat) : Block :=
  ⟨beCol (schedWord w (4 * r)), beCol (schedWord w (4 * r + 1)),
   beCol (schedWord w (4 * r + 2)), beCol (schedWord w (4 * r + 3))⟩

/-- AddRoundKey(r) (R204). -/
def addRoundKey (w : Schedule) (r : Nat) (s : Block) : Block := s.xor (roundKey w r)

/-- One micro-step of a round state machine: one round operation (R212, R213). -/
inductive RoundOp where
  | sb
  | sr
  | mc
  | ark (r : Nat)
  | isr
  | isb
  | imc
  deriving DecidableEq, Repr

/-- What one micro-step does to S (R201 to R207). -/
def RoundOp.apply (w : Schedule) (s : Block) : RoundOp → Block
  | .sb => subBytes s
  | .sr => shiftRows s
  | .mc => mixColumns s
  | .ark r => addRoundKey w r s
  | .isr => invShiftRows s
  | .isb => invSubBytes s
  | .imc => invMixColumns s

/-- The micro-steps F0, F(r,1..4) for r = 1..13, F(14,1..3) of the forward round state machine (R212). -/
def forwardSteps : List RoundOp :=
  .ark 0 ::
    ([1, 2, 3, 4, 5, 6, 7, 8, 9, 10, 11, 12, 13].flatMap (fun r => [.sb, .sr, .mc, .ark r]) ++
      [.sb, .sr, .ark 14])

/-- The micro-steps I0, I(r,1..4) for r = 13..1, I(0,1..3) of the inverse round state machine (R213). -/
def inverseSteps : List RoundOp :=
  .ark 14 ::
    ([13, 12, 11, 10, 9, 8, 7, 6, 5, 4, 3, 2, 1].flatMap (fun r => [.isr, .isb, .ark r, .imc]) ++
      [.isr, .isb, .ark 0])

/-- S after a sequence of micro-steps. -/
def runRounds (w : Schedule) (ops : List RoundOp) (b : Block) : Block :=
  ops.foldl (fun s op => op.apply w s) b

/-- `Cipher(b, W)` (R210): the forward round state machine run on b (R212). -/
def cipher (w : Schedule) (b : Block) : Block := runRounds w forwardSteps b

/-- `InvCipher(b, W)` (R211): the inverse round state machine run on b (R213). -/
def invCipher (w : Schedule) (b : Block) : Block := runRounds w inverseSteps b

end Sys2Proof.Machine
end

