-- ==== Sys2Proof/Machine/BlockCommands.lean ====
section
/-!
DEFINITION. The commands ENC_BLOCK and DEC_BLOCK (spec/42_block_transform.md R220, R222).
-/

namespace Sys2Proof.Machine

/-- The rule of ENC_BLOCK (R220). S holds the block it computed. -/
def encBlockRule (c : Ctx) : Work × Except ErrCode (List Byte) :=
  if c.n > c.buf then (c.work, .error .capacityExceeded)
  else if c.inst.cv = false then (c.work, .error .noCipher)
  else if c.n ≠ 16 then (c.work, .error .invalidInputLength)
  else
    let out := cipher c.inst.w (Block.ofBytes c.inp)
    ({ c.work with blk := out }, .ok out.toBytes)

/-- The rule of DEC_BLOCK (R222). -/
def decBlockRule (c : Ctx) : Work × Except ErrCode (List Byte) :=
  if c.n > c.buf then (c.work, .error .capacityExceeded)
  else if c.inst.cv = false then (c.work, .error .noCipher)
  else if c.n ≠ 16 then (c.work, .error .invalidCiphertextLength)
  else
    let out := invCipher c.inst.w (Block.ofBytes c.inp)
    ({ c.work with blk := out }, .ok out.toBytes)

/-- ENC_BLOCK (R220). -/
def execEncBlock (s : State) : Host.Outcome State Fault Refusal := .next (runOut .encBlock encBlockRule s)

/-- DEC_BLOCK (R222). -/
def execDecBlock (s : State) : Host.Outcome State Fault Refusal := .next (runOut .decBlock decBlockRule s)

end Sys2Proof.Machine
end

