-- ==== Sys2Proof/Machine/Chaining.lean ====
section
/-!
DEFINITION. The CBC chaining functions (spec/43_cbc.md R260, R262, R264).
-/

namespace Sys2Proof.Machine

/-- The blocks of R260's loop, from CHAIN: load P block ^ CHAIN, run the cipher, store and update CHAIN (R264). -/
def cbcEncBlocks (w : Schedule) : Block → List Block → List Block
  | _, [] => []
  | chain, p :: ps =>
    let c := cipher w (p.xor chain)
    c :: cbcEncBlocks w c ps

/-- The blocks of R262's loop, from CHAIN; CHAIN takes the raw ciphertext block (R262). -/
def cbcDecBlocks (w : Schedule) : Block → List Block → List Block
  | _, [] => []
  | chain, c :: cs => (invCipher w c).xor chain :: cbcDecBlocks w c cs

/-- The whole blocks of a byte sequence, left to right: m = len div 16 of them (R260). -/
def wholeBlocks (d : List Byte) : List Block := blocksOf (d.length / 16) d

/-- `CbcEncrypt(P, iv, W)` (R260). -/
def cbcEncrypt (w : Schedule) (iv : Block) (p : List Byte) : List Byte :=
  bytesOf (cbcEncBlocks w iv (wholeBlocks p))

/-- `CbcDecrypt(C, iv, W)` (R262). -/
def cbcDecrypt (w : Schedule) (iv : Block) (c : List Byte) : List Byte :=
  bytesOf (cbcDecBlocks w iv (wholeBlocks c))

/-- CHAIN after a pass whose ciphertext is `c`: its last block, or IV when there is none (R260, R262). -/
def lastChain (iv : Block) (c : List Byte) : Block := (wholeBlocks c).getLastD iv

/-! ## The micro-steps of a pass (R264)

The commands use the functions above; the micro-steps say in which order a pass does its work. -/

/-- What a pass works on: S, CHAIN, and the blocks it has put out (R35, R36, R260). -/
structure Pass where
  blk : Block
  chain : Block
  out : List Block
  deriving DecidableEq, Repr

/-- One micro-step of a pass (R264). -/
inductive PassStep where
  /-- CHAIN <- IV. -/
  | start
  /-- Encryption: S <- block ^ CHAIN. -/
  | loadXor (p : Block)
  /-- Decryption: S <- block. -/
  | load (c : Block)
  /-- One round operation on S (R212, R213). -/
  | round (op : RoundOp)
  /-- Encryption: S put out, CHAIN <- S. -/
  | store
  /-- Decryption: S ^ CHAIN put out, CHAIN <- the raw ciphertext block. -/
  | storeXor (c : Block)
  deriving DecidableEq, Repr

/-- What one micro-step of a pass does (R260, R262, R264). -/
def PassStep.apply (w : Schedule) (iv : Block) (k : Pass) : PassStep → Pass
  | .start => { k with chain := iv }
  | .loadXor p => { k with blk := p.xor k.chain }
  | .load c => { k with blk := c }
  | .round op => { k with blk := op.apply w k.blk }
  | .store => { k with chain := k.blk, out := k.out ++ [k.blk] }
  | .storeXor c => { k with chain := c, out := k.out ++ [k.blk.xor k.chain] }

/-- The micro-steps of an encrypting pass over the blocks given (R264). -/
def encPassSteps (ps : List Block) : List PassStep :=
  .start :: ps.flatMap fun p => .loadXor p :: (forwardSteps.map .round ++ [.store])

/-- The micro-steps of a decrypting pass over the blocks given (R264). -/
def decPassSteps (cs : List Block) : List PassStep :=
  .start :: cs.flatMap fun c => .load c :: (inverseSteps.map .round ++ [.storeXor c])

/-- A pass after a sequence of micro-steps. -/
def runPass (w : Schedule) (iv : Block) (steps : List PassStep) (k : Pass) : Pass :=
  steps.foldl (fun k st => st.apply w iv k) k

end Sys2Proof.Machine
end

