-- ==== Sys2Proof/Machine/CbcCommands.lean ====
section
/-!
DEFINITION. The commands CBC_ENC and CBC_DEC (spec/43_cbc.md R266, R268).
-/

namespace Sys2Proof.Machine

/-- S and CHAIN after an encrypting pass from IV whose ciphertext is `ct` (R260, R264): both hold its last block; S
is as before when the pass had no block. -/
def Work.afterEnc (k : Work) (iv : Block) (ct : List Byte) : Work :=
  { k with blk := (wholeBlocks ct).getLastD k.blk, chain := lastChain iv ct }

/-- S and CHAIN after a decrypting pass over the ciphertext `ct` (R262, R264): CHAIN holds its last block, S what the
inverse state machine made of it. -/
def Work.afterDec (k : Work) (w : Schedule) (iv : Block) (ct : List Byte) : Work :=
  { k with blk := ((wholeBlocks ct).map (invCipher w)).getLastD k.blk, chain := lastChain iv ct }

/-- The rule of CBC_ENC (R266). -/
def cbcEncRule (c : Ctx) : Work × Except ErrCode (List Byte) :=
  if c.n > c.buf then (c.work, .error .capacityExceeded)
  else if c.inst.cv = false then (c.work, .error .noCipher)
  else if c.n % 16 ≠ 0 then (c.work, .error .invalidInputLength)
  else
    let out := cbcEncrypt c.inst.w c.inst.iv c.inp
    (c.work.afterEnc c.inst.iv out, .ok out)

/-- The rule of CBC_DEC (R268). -/
def cbcDecRule (c : Ctx) : Work × Except ErrCode (List Byte) :=
  if c.n > c.buf then (c.work, .error .capacityExceeded)
  else if c.inst.cv = false then (c.work, .error .noCipher)
  else if c.n % 16 ≠ 0 then (c.work, .error .invalidCiphertextLength)
  else
    let out := cbcDecrypt c.inst.w c.inst.iv c.inp
    (c.work.afterDec c.inst.w c.inst.iv c.inp, .ok out)

/-- CBC_ENC (R266). -/
def execCbcEnc (s : State) : Host.Outcome State Fault Refusal := .next (runOut .cbcEnc cbcEncRule s)

/-- CBC_DEC (R268). -/
def execCbcDec (s : State) : Host.Outcome State Fault Refusal := .next (runOut .cbcDec cbcDecRule s)

end Sys2Proof.Machine
end

