-- ==== Sys2Proof/Machine/GfMul.lean ====
section
/-!
DEFINITION. The GFMUL command (spec/40_gf_tables.md R160).
-/

namespace Sys2Proof.Machine

/-- GFMUL a, b: RESULT <- zext_32(gmul(a, b)) (R160). It reads no input. After a write to IN_BUF or IN_LEN while it
ran, the result is unspecified (spec/70_reset_and_hazards.md R411): a free byte (log 10). -/
def execGfmul (a b : Byte) (s : State) : Host.Outcome State Fault Refusal :=
  .next (if s.inputChanged then (s.drawn 1).completeResult (Config.freeByte s.draws)
    else s.completeResult (gmul a b))

end Sys2Proof.Machine
end

