-- ==== Sys2Proof/Machine/KeyExpansion.lean ====
section
/-!
DEFINITION. The key schedule (spec/41_key_schedule.md R180 to R184).
-/

namespace Sys2Proof.Machine

/-- `RotWord(t)`: rotate left by one byte (R181). -/
def rotWord (t : Word) : Word := beWord (beByte t 1) (beByte t 2) (beByte t 3) (beByte t 0)

/-- `SubWord(t)`: each byte through SBOX (R181). -/
def subWord (t : Word) : Word :=
  beWord (sbox (beByte t 0)) (sbox (beByte t 1)) (sbox (beByte t 2)) (sbox (beByte t 3))

/-- What KX(i) XORs with w[i-8], from temp = w[i-1] (R180). -/
def kxTemp (i : Nat) (temp : Word) : Word :=
  if i % 8 = 0 then subWord (rotWord temp) ^^^ ((rcon (i / 8)).setWidth 32 <<< 24)
  else if i % 8 = 4 then subWord temp
  else temp

/-- Micro-step KX(i): the words w[0..i) followed by w[i] = w[i-8] ^ temp (R180, R183). -/
def kxStep (ws : List Word) (i : Nat) : List Word :=
  ws ++ [ws.getD (i - 8) 0 ^^^ kxTemp i (ws.getD (i - 1) 0)]

/-- Micro-step KX0: w[j] = be_word(K[4j], K[4j+1], K[4j+2], K[4j+3]) for j in [0, 8) (R180, R183). -/
def kxLoad (k : List Byte) : List Word :=
  [0, 1, 2, 3, 4, 5, 6, 7].map fun j =>
    beWord (k.getD (4 * j) 0) (k.getD (4 * j + 1) 0) (k.getD (4 * j + 2) 0) (k.getD (4 * j + 3) 0)

/-- The indices of the micro-steps KX(8) to KX(59), in order (R183). -/
def kxIndices : List Nat := List.range' 8 52

/-- The words w[0..59], by the micro-step sequence of R183. -/
def kxWords (k : List Byte) : List Word := kxIndices.foldl kxStep (kxLoad k)

/-- `KeyExpansion(K)` (R180). -/
def keyExpansion (k : Key) : Schedule := Vector.ofFn fun i => (kxWords k.toList).getD i.val 0

end Sys2Proof.Machine
end

