-- ==== Sys2Proof/Machine/NewCipher.lean ====
section
/-!
DEFINITION. The NEW_CIPHER command (spec/41_key_schedule.md R186, R187).
-/

namespace Sys2Proof.Machine

/-- `k <- IN[0..32)` (R186). -/
def keyOf (m : List Byte) : Key := Vector.ofFn fun i => m.getD i.val 0

/-- `v <- IN[32..48)` (R186). -/
def ivOf (m : List Byte) : Block := Block.ofBytes (m.drop Config.keyBytes)

/-- NEW_CIPHER klen, ivlen (R186): InvalidKeyLength, then InvalidIVLength (a failure ends the instance, R187), else
the instance of the key and IV in IN[0..48), with its schedule. -/
def execNewCipher (klen ivlen : Byte) (s : State) : Host.Outcome State Fault Refusal :=
  if klen.toNat ≠ Config.keyBytes then .next (s.raiseError .keyload .invalidKeyLength)
  else if ivlen.toNat ≠ Config.ivBytes then .next (s.raiseError .keyload .invalidIvLength)
  else
    .next ((s.readInput (.newCipher klen ivlen) 48).completeCipher (keyOf (s.inBytes 48)) (ivOf (s.inBytes 48))
      (keyExpansion (keyOf (s.inBytes 48))))

end Sys2Proof.Machine
end

