-- ==== Sys2Proof/Machine/PadCodec.lean ====
section
/-!
DEFINITION. The padding codec (spec/44_padding.md R280, R281).
-/

namespace Sys2Proof.Machine

/-- The pad length p = 16 - (len mod 16), in [1, 16] (R280). -/
def padLen (n : Nat) : Nat := 16 - n % 16

/-- `Pad(d)`: append p bytes each holding p (R280). -/
def pad (d : List Byte) : List Byte :=
  d ++ List.replicate (padLen d.length) (BitVec.ofNat 8 (padLen d.length))

/-- `Unpad(d)`: the bytes before the trailing p, or none for Fail (R281). -/
def unpad (d : List Byte) : Option (List Byte) :=
  match d.getLast? with
  | none => none
  | some p =>
    if p.toNat = 0 ∨ p.toNat > 16 then none
    else if p.toNat > d.length then none
    else if (d.drop (d.length - p.toNat)).any (fun b => b != p) then none
    else some (d.take (d.length - p.toNat))

/-- len(Pad(d)) for len(d) = n: 16 × (n div 16 + 1) (R280). -/
def paddedLen (n : Nat) : Nat := 16 * (n / 16 + 1)

end Sys2Proof.Machine
end

