-- ==== Sys2Proof/Machine/PadCommands.lean ====
section
/-!
DEFINITION. The commands PAD and UNPAD (spec/44_padding.md R284, R286).
-/

namespace Sys2Proof.Machine

/-- The rule of PAD (R284). The output's length is known from n alone (R366). -/
def padRule (c : Ctx) : Work × Except ErrCode (List Byte) :=
  if c.n > c.buf then (c.work, .error .capacityExceeded)
  else if paddedLen c.n > c.buf then (c.work, .error .capacityExceeded)
  else (c.work, .ok (pad c.inp))

/-- The rule of UNPAD (R286). -/
def unpadRule (c : Ctx) : Work × Except ErrCode (List Byte) :=
  if c.n > c.buf then (c.work, .error .capacityExceeded)
  else
    match unpad c.inp with
    | none => (c.work, .error .invalidPadding)
    | some e => (c.work, .ok e)

/-- PAD (R284). -/
def execPad (s : State) : Host.Outcome State Fault Refusal := .next (runOut .pad padRule s)

/-- UNPAD (R286). -/
def execUnpad (s : State) : Host.Outcome State Fault Refusal := .next (runOut .unpad unpadRule s)

end Sys2Proof.Machine
end

