-- ==== Sys2Proof/Machine/TextCodec.lean ====
section
/-!
DEFINITION. The base64-style text codec (spec/45_text_codec.md R300, R301, R310 to R312). The value order, the bit
order and the zero fill are the spec's from general knowledge (G7; log 16).
-/

namespace Sys2Proof.Machine

/-- `sym(v)`: the ASCII byte of the character with value v (R300). -/
def sym (v : BitVec 6) : Byte :=
  if v.toNat < 26 then 0x41 + v.setWidth 8
  else if v.toNat < 52 then 0x61 + (v.setWidth 8 - 26)
  else if v.toNat < 62 then 0x30 + (v.setWidth 8 - 52)
  else if v.toNat = 62 then 0x2B
  else 0x2F

/-- `val(ch)`: the value of an alphabet byte, none for every other byte (R300). -/
def symVal (ch : Byte) : Option (BitVec 6) :=
  if 0x41 ≤ ch.toNat ∧ ch.toNat ≤ 0x5A then some (BitVec.ofNat 6 (ch.toNat - 0x41))
  else if 0x61 ≤ ch.toNat ∧ ch.toNat ≤ 0x7A then some (BitVec.ofNat 6 (ch.toNat - 0x61 + 26))
  else if 0x30 ≤ ch.toNat ∧ ch.toNat ≤ 0x39 then some (BitVec.ofNat 6 (ch.toNat - 0x30 + 52))
  else if ch.toNat = 0x2B then some 62
  else if ch.toNat = 0x2F then some 63
  else none

/-- `in_alpha(ch)` (R300). -/
def inAlpha (ch : Byte) : Bool := (symVal ch).isSome

/-- The pad character '=' (R300). -/
def eqSign : Byte := 0x3D

/-- `v <- b0<<16 | b1<<8 | b2`, first byte most significant (R301). -/
def group24 (b0 b1 b2 : Byte) : BitVec 24 :=
  b0.setWidth 24 <<< 16 ||| b1.setWidth 24 <<< 8 ||| b2.setWidth 24

/-- Sextet k of a 24-bit group: v[23:18], v[17:12], v[11:6], v[5:0] for k = 0, 1, 2, 3 (R301). -/
def sextet (v : BitVec 24) (k : Nat) : BitVec 6 := v.extractLsb' (18 - 6 * k) 6

/-- `B64Encode(d)`, a group of three bytes at a time; missing bytes are zero (R301). -/
def b64Encode : List Byte → List Byte
  | [] => []
  | [b0] =>
    let v := group24 b0 0 0
    [sym (sextet v 0), sym (sextet v 1), eqSign, eqSign]
  | [b0, b1] =>
    let v := group24 b0 b1 0
    [sym (sextet v 0), sym (sextet v 1), sym (sextet v 2), eqSign]
  | b0 :: b1 :: b2 :: d =>
    let v := group24 b0 b1 b2
    sym (sextet v 0) :: sym (sextet v 1) :: sym (sextet v 2) :: sym (sextet v 3) :: b64Encode d

/-- The values of the longest alphabet prefix: decoding stops at the first byte outside the alphabet (R310, R312). -/
def alphaPrefix : List Byte → List (BitVec 6)
  | [] => []
  | ch :: t =>
    match symVal ch with
    | some v => v :: alphaPrefix t
    | none => []

/-- `x0<<18 | x1<<12 | x2<<6 | x3` (R310). -/
def join24 (x0 x1 x2 x3 : BitVec 6) : BitVec 24 :=
  x0.setWidth 24 <<< 18 ||| x1.setWidth 24 <<< 12 ||| x2.setWidth 24 <<< 6 ||| x3.setWidth 24

/-- Byte k of a 24-bit group: v[23:16], v[15:8], v[7:0] for k = 0, 1, 2 (R310). -/
def octet (v : BitVec 24) (k : Nat) : Byte := v.extractLsb' (16 - 8 * k) 8

/-- The bytes of a sequence of 6-bit values; a partial group of 2 or 3 gives 1 or 2 bytes, a lone value none
(R310). -/
def sextetsToBytes : List (BitVec 6) → List Byte
  | [] => []
  | [_] => []
  | [x0, x1] => [octet (join24 x0 x1 0 0) 0]
  | [x0, x1, x2] => [octet (join24 x0 x1 x2 0) 0, octet (join24 x0 x1 x2 0) 1]
  | x0 :: x1 :: x2 :: x3 :: xs =>
    octet (join24 x0 x1 x2 x3) 0 :: octet (join24 x0 x1 x2 x3) 1 :: octet (join24 x0 x1 x2 x3) 2 ::
      sextetsToBytes xs

/-- `B64Decode(t)` (R310). It never fails (R312). -/
def b64Decode (t : List Byte) : List Byte := sextetsToBytes (alphaPrefix t)

/-- len(B64Encode(d)) for len(d) = n: 4 × ceil(n/3) (R302). -/
def b64Len (n : Nat) : Nat := 4 * ((n + 2) / 3)

end Sys2Proof.Machine
end

