-- ==== Sys2Proof/Machine/TextCommands.lean ====
section
/-!
DEFINITION. The commands B64_ENC and B64_DEC (spec/45_text_codec.md R306, R314).
-/

namespace Sys2Proof.Machine

/-- The rule of B64_ENC (R306). -/
def b64EncRule (c : Ctx) : Work × Except ErrCode (List Byte) :=
  if c.n > c.buf then (c.work, .error .capacityExceeded)
  else if b64Len c.n > c.buf then (c.work, .error .capacityExceeded)
  else (c.work, .ok (b64Encode c.inp))

/-- The rule of B64_DEC (R314). Malformed text is never an error (R312). -/
def b64DecRule (c : Ctx) : Work × Except ErrCode (List Byte) :=
  if c.n > c.buf then (c.work, .error .capacityExceeded)
  else (c.work, .ok (b64Decode c.inp))

/-- B64_ENC (R306). -/
def execB64Enc (s : State) : Host.Outcome State Fault Refusal := .next (runOut .b64Enc b64EncRule s)

/-- B64_DEC (R314). -/
def execB64Dec (s : State) : Host.Outcome State Fault Refusal := .next (runOut .b64Dec b64DecRule s)

end Sys2Proof.Machine
end

