-- ==== Sys2Proof/Machine/TopCommands.lean ====
section
/-!
DEFINITION. The commands NOP, ENCRYPT and DECRYPT (spec/46_top_level.md R330 to R339; 90_conflicts.md C3, C4).
-/

namespace Sys2Proof.Machine

/-- T(n) = 4 × ceil(L(n)/3), the token length of n > 0 plaintext bytes (R333). -/
def tokenLen (n : Nat) : Nat := b64Len (paddedLen n)

/-- The rule of ENCRYPT (R336): the empty input gives the empty token (C3), else Pad, then CbcEncrypt, then
B64Encode (R332, C4). SCRATCH is left with the raw ciphertext. -/
def encryptRule (c : Ctx) : Work × Except ErrCode (List Byte) :=
  if c.n > c.buf then (c.work, .error .capacityExceeded)
  else if c.inst.cv = false then (c.work, .error .noCipher)
  else if c.n = 0 then (c.work, .ok [])
  else if tokenLen c.n > c.buf then (c.work, .error .capacityExceeded)
  else
    let raw := cbcEncrypt c.inst.w c.inst.iv (pad c.inp)
    ({ c.work.afterEnc c.inst.iv raw with scratch := raw }, .ok (b64Encode raw))

/-- The rule of DECRYPT (R339): the empty input gives the empty output (C3), else B64Decode, then the length check,
then CbcDecrypt, then Unpad (R332, C4). SCRATCH is left with what the last stage before the outcome wrote. -/
def decryptRule (c : Ctx) : Work × Except ErrCode (List Byte) :=
  if c.n > c.buf then (c.work, .error .capacityExceeded)
  else if c.inst.cv = false then (c.work, .error .noCipher)
  else if c.n = 0 then (c.work, .ok [])
  else
    let raw := b64Decode c.inp
    if raw.length % 16 ≠ 0 then ({ c.work with scratch := raw }, .error .invalidCiphertextLength)
    else
      let padded := cbcDecrypt c.inst.w c.inst.iv raw
      let k := { c.work.afterDec c.inst.w c.inst.iv raw with scratch := padded }
      match unpad padded with
      | none => (k, .error .invalidPadding)
      | some e => (k, .ok e)

/-- NOP (R330). -/
def execNop (s : State) : Host.Outcome State Fault Refusal := .next s.complete

/-- ENCRYPT (R336). -/
def execEncrypt (s : State) : Host.Outcome State Fault Refusal := .next (runOut .encrypt encryptRule s)

/-- DECRYPT (R339). -/
def execDecrypt (s : State) : Host.Outcome State Fault Refusal := .next (runOut .decrypt decryptRule s)

end Sys2Proof.Machine
end

