-- ==== Sys2Proof/Machine/HostPort.lean ====
section
/-!
DEFINITION. The host port: the address map, legal accesses, reads and writes, and the host's turn
(spec/20_memory.md R70 to R84; spec/30_encoding.md R118, R119, R130, R131; spec/70_reset_and_hazards.md R411).
-/

namespace Sys2Proof.Machine

/-- The five CSR offsets of R71. -/
def csrOffsets : List Nat := [offCmd, offStatus, offInLen, offOutLen, offResult]

/-- `a` lies in the IN_BUF window (R71). -/
def inWindow (c : Config) (a : Nat) : Bool := decide (offIn ≤ a ∧ a < offIn + c.bufBytes)

/-- `a` lies in the OUT_BUF window (R71). -/
def outWindow (c : Config) (a : Nat) : Bool := decide (offOut ≤ a ∧ a < offOut + c.bufBytes)

/-- `legal(a, n)` (R78), with the 18-bit bound of R76: a 32-bit access to a CSR, or an 8-bit or an aligned 32-bit
access inside a buffer window. -/
def legalAccess (c : Config) (a n : Nat) : Bool :=
  decide (a ≤ 0x3FFFF) &&
    ((n == 4 && csrOffsets.contains a) ||
      ((n == 1 || (n == 4 && a % 4 == 0)) && (inWindow c a || outWindow c a)))

/-- What a read of a CSR returns (R76, R84): OUT_LEN reads 0 while BUSY. -/
def State.csrRead (s : State) (a : Nat) : Word :=
  if a = offCmd then s.cmdReg
  else if a = offStatus then s.status
  else if a = offInLen then s.inLen
  else if a = offOutLen then (if s.busy then 0 else s.outLen)
  else s.result

/-- Buffer byte i as a host read sees it: a free byte, the `k`th drawn, where it has no value (R73; log 7, log 8). -/
def portByte (m : Mem) (i k : Nat) : Byte := (m.read i).getD (Config.freeByte k)

/-- The value of an `n`-byte read of a buffer at index i (R75, R76). -/
def portValue (m : Mem) (i n k : Nat) : Word :=
  if n = 1 then (portByte m i k).setWidth 32
  else leWord (portByte m i k) (portByte m (i + 1) (k + 1)) (portByte m (i + 2) (k + 2)) (portByte m (i + 3) (k + 3))

/-- The buffer and index a legal read at `a` reads; none for a CSR, and for OUT_BUF while BUSY (R76, R84). -/
def State.portSource (s : State) (a : Nat) : Option (Mem × Nat) :=
  if csrOffsets.contains a then none
  else if inWindow s.cfg a then some (s.inBuf, a - offIn)
  else if s.busy then none
  else some (s.outBuf, a - offOut)

/-- The value a legal read returns, `MemRead(a, n)` of R76: a buffer's bytes, a CSR, or 0 for OUT_BUF while BUSY. -/
def State.readValue (s : State) (a n : Nat) : Word :=
  match s.portSource a with
  | some (m, i) => portValue m i n s.draws
  | none => if csrOffsets.contains a then s.csrRead a else 0

/-- How many free values a legal read draws: one for each byte read when one of them has no value, else none. -/
def State.readDraws (s : State) (a n : Nat) : Nat :=
  match s.portSource a with
  | none => 0
  | some (m, i) => if (List.range n).any fun j => (m.read (i + j)).isNone then n else 0

/-- The state with a response added to what the host's reads returned. -/
def State.respond (s : State) (name : Name) (v : Word) (bus : Bool) : State :=
  { s with host := { s.host with responses := ⟨s.host.line, name, v, bus⟩ :: s.host.responses } }

/-- `name <- MemRead(a, n)` (R76): an illegal read returns 0 with BusError, which is recorded (R79). -/
def State.hostRead (s : State) (name : Name) (a n : Nat) : State :=
  if legalAccess s.cfg a n then (s.respond name (s.readValue a n) false).drawn (s.readDraws a n)
  else (s.respond name 0 true).record (.busError s.host.line)

/-- A write to the input while BUSY = 1: HAZARD_INPUT_WRITE recorded, the running command's input open from now on
(R411; log 10). -/
def State.inputHazard (s : State) : State :=
  if s.busy then { s.record (.hazardInputWrite s.host.line) with inputChanged := true } else s

/-- A host write to CMD: accepted when the core is idle (R118), else dropped (R119). -/
def State.writeCmd (s : State) (v : Word) : State :=
  match s.fsm with
  | .idle => s.accept v
  | .exec _ => s

/-- `IN_LEN <- v` (R77). -/
def State.writeInLen (s : State) (v : Word) : State := { s.inputHazard with inLen := v }

/-- IN_BUF bytes from index i written with the `n` bytes of a host access (R75, R77). -/
def writeBytes (m : Mem) (i n : Nat) (v : Word) : Mem :=
  if n = 1 then m.write i (leByte v 0)
  else (((m.write i (leByte v 0)).write (i + 1) (leByte v 1)).write (i + 2) (leByte v 2)).write (i + 3) (leByte v 3)

/-- A host write to the IN_BUF window (R77). -/
def State.writeIn (s : State) (a n : Nat) (v : Word) : State :=
  { s.inputHazard with inBuf := writeBytes s.inBuf (a - offIn) n v }

/-- `MemWrite(a, n, v)` (R77): an illegal write records BusError and changes nothing else (R79); writes to STATUS,
OUT_LEN, RESULT and the OUT_BUF window are ignored. -/
def State.hostWrite (s : State) (a n : Nat) (v : Word) : State :=
  if legalAccess s.cfg a n then
    if a = offCmd then s.writeCmd v
    else if a = offInLen then s.writeInLen v
    else if inWindow s.cfg a then s.writeIn a n v
    else s
  else s.record (.busError s.host.line)

/-- The host moves on to the lines `ls`. -/
def State.advance (s : State) (ls : List HostLine) : State :=
  { s with host := { s.host with prog := ls, line := s.host.line + 1 } }

/-- The value of a host write: the number, or what the last read that assigned the name returned; a free value where
no read did (R130; log 5). -/
def State.valueOf (s : State) : HostValue → Word
  | .lit v => v
  | .name x =>
    match s.host.responses.find? fun r => r.name == x with
    | some r => r.value
    | none => Config.freeName x

/-- The host's turn: its next line performed (R130). `wait` polls STATUS once and stays on its line while BUSY = 1
(R131). A host with no line left does nothing. -/
def State.hostTurn (s : State) : State :=
  match s.host.prog with
  | [] => s
  | .rd name a n :: ls => (s.hostRead name a n).advance ls
  | .wr a n v :: ls => (s.hostWrite a n (s.valueOf v)).advance ls
  | .wait :: ls =>
    if s.busy then s.hostRead waitName offStatus 4 else (s.hostRead waitName offStatus 4).advance ls

end Sys2Proof.Machine
end

