-- ==== Sys2Proof/Machine/Turns.lean ====
section
/-!
DEFINITION. Who moves next, and each agent's turn (spec/00_scope.md R13; spec/20_memory.md R83;
spec/60_exceptions.md R368; spec/70_reset_and_hazards.md R401, R421). log 3, log 4.
-/

namespace Sys2Proof.Machine

/-- The next turn: the first of the list; when the list is empty the core's while it is busy, else the host's
(log 4). -/
def State.nextTurn (s : State) : Turn :=
  match s.turns with
  | t :: _ => t
  | [] => if s.busy then .core else .host

/-- The state with the next turn taken off the list. -/
def State.turnTaken (s : State) : State := { s with turns := s.turns.tail }

/-- An accepted illegal word completes with IllegalCommand, changing nothing but STATUS (R104, R370). -/
def State.completeIllegal (s : State) : State := s.raiseError .plain .illegalCommand

/-- The core's turn: nothing when idle; else the accepted command decoded and run to its completion (R44, R104,
R105, R120). -/
def State.coreTurn (s : State) : Host.Outcome State Fault Refusal :=
  match s.fsm with
  | .idle => .next s
  | .exec w =>
    match decode w with
    | .ok i => exec i s
    | .error _ => .next s.completeIllegal

/-- One turn performed. -/
def State.runTurn (s : State) : Turn → Host.Outcome State Fault Refusal
  | .host => .next s.hostTurn
  | .core => s.coreTurn
  | .reset => .next s.onReset

end Sys2Proof.Machine
end

