-- ==== Sys2Proof/Machine/Step.lean ====
section
/-!
DEFINITION. One step of the machine: the next turn taken and performed. The core fetches nothing from memory
(spec/20_memory.md R86): its next instruction is the command word of an acceptance (R118).
-/

namespace Sys2Proof.Machine

/-- One step: the next turn is taken off the list and performed. -/
def step (s : State) : Host.Outcome State Fault Refusal :=
  Sys2Proof.Machine.State.runTurn (Sys2Proof.Machine.State.turnTaken s) (Sys2Proof.Machine.State.nextTurn s)

/-- `s` with the command word whose `nbits` table bits are `w` accepted (R118), as a host write to CMD leaves it,
and the core's turn next: the very next step runs it (log 6). -/
def State.withFetchWord (s : State) (nbits w : Nat) : State :=
  { s.accept (BitVec.ofNat 32 (w % 2 ^ nbits)) with turns := .core :: s.turns }

end Sys2Proof.Machine
end

