-- ==== Sys2Proof/Machine/Asm.lean ====
section
/-!
DEFINITION. The mnemonic syntax of a command word: printing and parsing (spec/30_encoding.md R132). Text is a list
of characters. Numbers are read in decimal or, with the prefix 0x, in hex (R130).
-/

namespace Sys2Proof.Machine

/-- The digit of a number below 16, in lower-case hex. -/
def digitChar (k : Nat) : Char := if k < 10 then Char.ofNat (48 + k) else Char.ofNat (87 + k)

/-- The value of a hex digit. -/
def digitVal (c : Char) : Option Nat :=
  if 48 ≤ c.toNat ∧ c.toNat ≤ 57 then some (c.toNat - 48)
  else if 97 ≤ c.toNat ∧ c.toNat ≤ 102 then some (c.toNat - 87)
  else if 65 ≤ c.toNat ∧ c.toNat ≤ 70 then some (c.toNat - 55)
  else none

/-- A byte in decimal, without leading zeros. -/
def printByte (b : Byte) : List Char :=
  let k := b.toNat
  if k < 10 then [digitChar k]
  else if k < 100 then [digitChar (k / 10), digitChar (k % 10)]
  else [digitChar (k / 100), digitChar (k / 10 % 10), digitChar (k % 10)]

/-- The 8 hex digits of a word, most significant first. -/
def printHex8 (w : Word) : List Char :=
  [7, 6, 5, 4, 3, 2, 1, 0].map fun i => digitChar (w.toNat / 16 ^ i % 16)

/-- The mnemonic of a command (R102). -/
def mnemonicOf : Instr → List Char
  | .nop => ['N', 'O', 'P']
  | .newCipher _ _ => ['N', 'E', 'W', '_', 'C', 'I', 'P', 'H', 'E', 'R']
  | .encrypt => ['E', 'N', 'C', 'R', 'Y', 'P', 'T']
  | .decrypt => ['D', 'E', 'C', 'R', 'Y', 'P', 'T']
  | .encBlock => ['E', 'N', 'C', '_', 'B', 'L', 'O', 'C', 'K']
  | .decBlock => ['D', 'E', 'C', '_', 'B', 'L', 'O', 'C', 'K']
  | .cbcEnc => ['C', 'B', 'C', '_', 'E', 'N', 'C']
  | .cbcDec => ['C', 'B', 'C', '_', 'D', 'E', 'C']
  | .pad => ['P', 'A', 'D']
  | .unpad => ['U', 'N', 'P', 'A', 'D']
  | .b64Enc => ['B', '6', '4', '_', 'E', 'N', 'C']
  | .b64Dec => ['B', '6', '4', '_', 'D', 'E', 'C']
  | .gfmul _ _ => ['G', 'F', 'M', 'U', 'L']

/-- `A, B` after a mnemonic (R132). -/
def printOperands (a b : Byte) : List Char := ' ' :: printByte a ++ [',', ' '] ++ printByte b

/-- A command in mnemonic syntax: `MNEMONIC`, or `MNEMONIC A, B` for NEW_CIPHER and GFMUL (R132). -/
def printInstr (i : Instr) : List Char :=
  match i with
  | .newCipher klen ivlen => mnemonicOf i ++ printOperands klen ivlen
  | .gfmul a b => mnemonicOf i ++ printOperands a b
  | .nop | .encrypt | .decrypt | .encBlock | .decBlock | .cbcEnc | .cbcDec | .pad | .unpad | .b64Enc | .b64Dec =>
    mnemonicOf i

/-- A command word disassembled; an illegal word prints as `.illegal 0x<8 hex digits>` (R132). -/
def disassemble (w : Word) : List Char :=
  match decode w with
  | .ok i => printInstr i
  | .error _ => ['.', 'i', 'l', 'l', 'e', 'g', 'a', 'l', ' ', '0', 'x'] ++ printHex8 w

/-- A number and one more digit of a base; none for a character that is no digit of it. -/
def pushDigit (base : Nat) (acc : Option Nat) (c : Char) : Option Nat :=
  match acc, digitVal c with
  | some n, some d => if d < base then some (n * base + d) else none
  | _, _ => none

/-- The value of a nonempty sequence of digits in a base. -/
def parseDigits (base : Nat) (cs : List Char) : Option Nat :=
  match cs with
  | [] => none
  | c :: ds => ds.foldl (pushDigit base) (pushDigit base (some 0) c)

/-- A number, in decimal or, after 0x, in hex (R130). -/
def parseNat (cs : List Char) : Option Nat :=
  match cs with
  | '0' :: 'x' :: ds => parseDigits 16 ds
  | ds => parseDigits 10 ds

/-- A number in 0..255 (R132). -/
def parseByte (cs : List Char) : Option Byte :=
  match parseNat cs with
  | some n => if n < 256 then some (BitVec.ofNat 8 n) else none
  | none => none

/-- The text before and after the first occurrence of a character; none where it does not occur. -/
def splitAtChar (c : Char) : List Char → Option (List Char × List Char)
  | [] => none
  | d :: ds => if d = c then some ([], ds) else (splitAtChar c ds).map fun p => (d :: p.1, p.2)

/-- The commands without operands. -/
def plainInstrs : List Instr :=
  [.nop, .encrypt, .decrypt, .encBlock, .decBlock, .cbcEnc, .cbcDec, .pad, .unpad, .b64Enc, .b64Dec]

/-- A command read from its mnemonic and operands. -/
def parseOperands (name : List Char) (a b : Byte) : Option Instr :=
  if name = mnemonicOf (.newCipher a b) then some (.newCipher a b)
  else if name = mnemonicOf (.gfmul a b) then some (.gfmul a b)
  else none

/-- A command read from its mnemonic syntax (R132). -/
def parseInstr (cs : List Char) : Option Instr :=
  match splitAtChar ' ' cs with
  | none => plainInstrs.find? fun i => mnemonicOf i == cs
  | some (name, rest) =>
    match splitAtChar ',' rest with
    | some (a, ' ' :: b) =>
      match parseByte a, parseByte b with
      | some x, some y => parseOperands name x y
      | _, _ => none
    | _ => none

end Sys2Proof.Machine
end

