-- ==== Sys2Proof/Safety.lean ====
section
/-!
DEFINITION. What claims about SFCC speak of: a command's input as the host gave it, the outcome of a command and
what it leaves alone, a run without model faults, and the invariants of the machine.
-/

namespace Sys2Proof.Machine

/-! ## Inputs -/

/-- IN[0..len(d)) was written with `d` (spec/20_memory.md R72). -/
abbrev State.HasBytes (s : State) (d : List Byte) : Prop :=
  ∀ i, i < d.length → s.inBuf.read i = some (d.getD i 0)

/-- The command's input is `d`: IN_LEN is its length, its bytes are in IN_BUF, and the host wrote neither while the
command ran (spec/30_encoding.md R110, spec/70_reset_and_hazards.md R411, R413). -/
abbrev State.HasInput (s : State) (d : List Byte) : Prop :=
  s.inputChanged = false ∧ s.inLen.toNat = d.length ∧ s.HasBytes d

/-- `d` fits in IN_BUF and is the command's input (spec/60_exceptions.md R366). -/
abbrev State.TakesInput (s : State) (d : List Byte) : Prop := s.HasInput d ∧ d.length ≤ s.cfg.bufBytes

/-! ## Outcomes -/

/-- `t` has completed a command successfully: BUSY = 0, DONE = 1, ERR = 0, ERRCODE = 0 (spec/30_encoding.md R120). -/
abbrev State.Succeeded (t : State) : Prop := t.fsm = .idle ∧ t.done = true ∧ t.err = false ∧ t.errCode = 0

/-- `t` has completed a command with the error `e`: BUSY = 0, DONE = 1, ERR = 1, ERRCODE its code
(spec/60_exceptions.md R370). -/
abbrev State.Failed (t : State) (e : ErrCode) : Prop :=
  t.fsm = .idle ∧ t.done = true ∧ t.err = true ∧ t.errCode = e.code

/-- OUT_BUF and OUT_LEN hold the output `out`: OUT[0..len(out)) = out, every other byte of OUT_BUF 0x00, and
OUT_LEN = len(out) (spec/30_encoding.md R111). -/
abbrev State.Holds (t : State) (out : List Byte) : Prop :=
  t.outLen.toNat = out.length ∧ ∀ a, a < t.cfg.bufBytes → t.outBuf.read a = some (out.getD a 0)

/-! ## Frames -/

/-- What no command writes: the buffer size, CMD_REG, IN_LEN, every byte of IN_BUF, the host and the turns
(spec/10_state.md R46, spec/20_memory.md R89). -/
abbrev State.SameSurroundings (s t : State) : Prop :=
  t.cfg = s.cfg ∧ t.cmdReg = s.cmdReg ∧ t.inLen = s.inLen ∧ t.host = s.host ∧ t.turns = s.turns ∧
    (∀ a, t.inBuf.read a = s.inBuf.read a)

/-- OUT_LEN and every byte of OUT_BUF are unchanged. -/
abbrev State.SameOut (s t : State) : Prop := t.outLen = s.outLen ∧ ∀ a, t.outBuf.read a = s.outBuf.read a

/-- No model fault was recorded and no free value drawn. -/
abbrev State.NothingOpen (s t : State) : Prop := t.faults = s.faults ∧ t.draws = s.draws

/-- A run so far without BusError and without hazard: the premise of a claim about a host program
(spec/20_memory.md R79, spec/70_reset_and_hazards.md R411, R413). -/
abbrev State.NoFault (s : State) : Prop := s.faults = []

/-! ## Commands by class -/

/-- The OUT-class commands, which are also the IN-class commands (spec/30_encoding.md R110, R111). -/
def instrIsOut : Instr → Bool
  | .encrypt | .decrypt | .encBlock | .decBlock | .cbcEnc | .cbcDec | .pad | .unpad | .b64Enc | .b64Dec => true
  | .nop | .newCipher _ _ | .gfmul _ _ => false

/-- The KEY-class commands (spec/30_encoding.md R112). -/
def instrIsKey : Instr → Bool
  | .encrypt | .decrypt | .encBlock | .decBlock | .cbcEnc | .cbcDec => true
  | .nop | .newCipher _ _ | .pad | .unpad | .b64Enc | .b64Dec | .gfmul _ _ => false

/-- NEW_CIPHER, the KEYLOAD command (spec/30_encoding.md R102). -/
def instrIsKeyload : Instr → Bool
  | .newCipher _ _ => true
  | .nop | .encrypt | .decrypt | .encBlock | .decBlock | .cbcEnc | .cbcDec | .pad | .unpad | .b64Enc | .b64Dec
  | .gfmul _ _ => false

/-- GFMUL, the one command that writes RESULT (spec/10_state.md R43). -/
def instrIsGfmul : Instr → Bool
  | .gfmul _ _ => true
  | .nop | .newCipher _ _ | .encrypt | .decrypt | .encBlock | .decBlock | .cbcEnc | .cbcDec | .pad | .unpad
  | .b64Enc | .b64Dec => false

/-- The errors the table of spec/60_exceptions.md R360 lets a legal command raise. -/
def listedErrors : Instr → List ErrCode
  | .nop => []
  | .newCipher _ _ => [.invalidKeyLength, .invalidIvLength]
  | .encrypt => [.capacityExceeded, .noCipher]
  | .decrypt => [.capacityExceeded, .noCipher, .invalidCiphertextLength, .invalidPadding]
  | .encBlock => [.capacityExceeded, .noCipher, .invalidInputLength]
  | .decBlock => [.capacityExceeded, .noCipher, .invalidCiphertextLength]
  | .cbcEnc => [.capacityExceeded, .noCipher, .invalidInputLength]
  | .cbcDec => [.capacityExceeded, .noCipher, .invalidCiphertextLength]
  | .pad => [.capacityExceeded]
  | .unpad => [.capacityExceeded, .invalidPadding]
  | .b64Enc => [.capacityExceeded]
  | .b64Dec => [.capacityExceeded]
  | .gfmul _ _ => []

/-! ## Completions -/

/-- The OUT-class command `i` run in `s` completes with the output `out`, and changes nothing but OUT_BUF, OUT_LEN,
STATUS and the working registers (spec/30_encoding.md R111, R120; spec/10_state.md R46). -/
def Delivers (i : Instr) (s : State) (out : List Byte) : Prop :=
  ∃ t, exec i s = .next t ∧ t.Succeeded ∧ t.Holds out ∧ s.SameSurroundings t ∧ t.inst = s.inst ∧
    t.result = s.result ∧ s.NothingOpen t

/-- The OUT-class command `i` run in `s` completes with the error `e`: OUT_BUF all 0x00, OUT_LEN = 0, and nothing
else changes but STATUS and the working registers (spec/60_exceptions.md R370). -/
def FailsWith (i : Instr) (s : State) (e : ErrCode) : Prop :=
  ∃ t, exec i s = .next t ∧ t.Failed e ∧ t.Holds [] ∧ s.SameSurroundings t ∧ t.inst = s.inst ∧
    t.result = s.result

/-! ## Invariants -/

/-- The buffers keep their canonical form and their size: every cell lies in its buffer; IN_BUF has no default byte;
OUT_BUF is either as reset left it or written throughout (spec/20_memory.md R72, R73). -/
abbrev State.BuffersWf (s : State) : Prop :=
  s.inBuf.wf ∧ s.outBuf.wf ∧ s.inBuf.unlisted = none ∧
    (s.outBuf = Mem.unwritten ∨ s.outBuf.unlisted = some 0) ∧
    (∀ c ∈ s.inBuf.cells, c.1 < s.cfg.bufBytes) ∧ (∀ c ∈ s.outBuf.cells, c.1 < s.cfg.bufBytes)

/-- The legal combinations of STATUS (spec/10_state.md R40), and no ERRCODE of 9 to 15 (spec/60_exceptions.md R360).
-/
abbrev State.StatusLegal (s : State) : Prop :=
  (s.busy = true → s.done = false ∧ s.err = false ∧ s.errCode = 0) ∧
    (s.err = true → s.done = true ∧ s.errCode ≠ 0) ∧ (s.err = false → s.errCode = 0) ∧ s.errCode.toNat ≤ 8

/-- Whenever CV = 1, W = KeyExpansion(KEY) (spec/10_state.md R34); whenever CV = 0, KEY, IV and W are zero
(spec/10_state.md R47, spec/41_key_schedule.md R187). -/
abbrev State.InstanceSound (s : State) : Prop :=
  (s.inst.cv = true → s.inst.w = keyExpansion s.inst.key) ∧ (s.inst.cv = false → s.inst = CipherInst.cleared)

/-- OUT_LEN counts bytes of OUT_BUF, and past it OUT_BUF is zero once an output was written; RESULT[31:8] is 0;
SCRATCH fits in BUF_BYTES (spec/10_state.md R37, R42, R43; spec/30_encoding.md R111). -/
abbrev State.OutputsBounded (s : State) : Prop :=
  s.outLen.toNat ≤ s.cfg.bufBytes ∧ s.result.toNat < 256 ∧ s.work.scratch.length ≤ s.cfg.bufBytes ∧
    (s.outBuf.unlisted = none → s.outLen = 0) ∧ (∀ c ∈ s.outBuf.cells, c.1 < s.outLen.toNat)

/-- While a command runs CMD_REG is its word (spec/20_memory.md R84); its input is open only after a recorded
HAZARD_INPUT_WRITE in its BUSY period (spec/70_reset_and_hazards.md R411). -/
abbrev State.CommandTracked (s : State) : Prop :=
  (∀ w, s.fsm = .exec w → s.cmdReg = w) ∧
    (s.inputChanged = true → s.busy = true ∧ ∃ line, Fault.hazardInputWrite line ∈ s.faults)

/-- The invariant of the machine. -/
structure State.Inv (s : State) : Prop where
  config : s.cfg.legal
  buffers : s.BuffersWf
  status : s.StatusLegal
  inst : s.InstanceSound
  outputs : s.OutputsBounded
  command : s.CommandTracked

end Sys2Proof.Machine
end

