-- ==== Sys2Proof/Certificates/Slice0/Obligations.lean ====
section
/-!
DEFINITION. The statements of this row, from the numbered rules of spec/. Each docstring names its rules. A
statement about a command speaks of the state in which it runs; where the input may be open (R411) or unwritten
(R413) the statement says so.
-/

open Sys2Proof Sys2Proof.Machine

/-! ## Encoding (spec/30_encoding.md) -/

/-- R102, R105: every command decodes from the word that encodes it, with every operand at every value. -/
def Obligations.CommandsDecodeFromTheirWords : Prop := ∀ i : Instr, decode (encode i) = .ok i

/-- R102, R105: a word that decodes to a command is that command's one encoding. -/
def Obligations.DecodedWordsAreEncodings : Prop := ∀ (w : Word) (i : Instr), decode w = .ok i → encode i = w

/-- R103: the words that decode are exactly those of its three conditions. -/
def Obligations.DecodableWordsAreTheLegalWords : Prop :=
  ∀ w : Word, (∃ i, decode w = .ok i) ↔
    (w.extractLsb' 24 8 = 0 ∧
      w.extractLsb' 0 8 ∈ ([0x00, 0x01, 0x02, 0x03, 0x10, 0x11, 0x12, 0x13, 0x14, 0x15, 0x16, 0x17, 0x18] : List Byte) ∧
      (w.extractLsb' 0 8 ≠ 0x01 → w.extractLsb' 0 8 ≠ 0x18 → w.extractLsb' 8 8 = 0 ∧ w.extractLsb' 16 8 = 0))

/-- R105: the decoder accepts exactly the words that match a row of spec/opcode_table.json. -/
def Obligations.DecodableWordsMatchTheOpcodeTable : Prop :=
  ∀ w : Word, (∃ i, decode w = .ok i) ↔ ∃ r ∈ opcodeTable, w &&& r.mask = r.bits

/-- R104: a word with RSV = 0 is refused for its opcode exactly when OPC is in 0x04..0x0F or 0x19..0xFF; a nonzero
RSV is refused as such, whatever the opcode. -/
def Obligations.ReservedOpcodesAreRefused : Prop :=
  ∀ w : Word,
    (decode w = .error .nonzeroRsv ↔ w.extractLsb' 24 8 ≠ 0) ∧
    (decode w = .error .reservedOpcode ↔
      w.extractLsb' 24 8 = 0 ∧
        ((4 ≤ (w.extractLsb' 0 8).toNat ∧ (w.extractLsb' 0 8).toNat ≤ 0x0F) ∨ 0x19 ≤ (w.extractLsb' 0 8).toNat))

/-- R102: words written out from the opcode map, one of each family. -/
def Obligations.SpecWordsDecode : Prop :=
  decode 0x00000000 = .ok .nop ∧ decode 0x00102001 = .ok (.newCipher 32 16) ∧ decode 0x00000002 = .ok .encrypt ∧
    decode 0x00000010 = .ok .encBlock ∧ decode 0x00000013 = .ok .cbcDec ∧ decode 0x00000015 = .ok .unpad ∧
    decode 0x00000017 = .ok .b64Dec ∧ decode 0x00835718 = .ok (.gfmul 0x57 0x83)

/-- R132: printing a legal word and parsing the text gives the word back. -/
def Obligations.PrintedWordsParseBack : Prop :=
  ∀ (w : Word) (i : Instr), decode w = .ok i → (parseInstr (disassemble w)).map encode = some w

/-! ## The field and the tables (spec/40_gf_tables.md) -/

/-- R143, which the spec derives from R142: the shift-and-add form gives the product for every pair, and xtime is the
product by 2. -/
def Obligations.MultiplierIsShiftAndAdd : Prop :=
  (∀ a b : Byte, gmulShiftAdd a b = gmul a b) ∧ ∀ a : Byte, gmul a 0x02 = xtime a

/-- R144, which the spec derives from R140 and R142: the laws of gmul. -/
def Obligations.MultiplierLaws : Prop :=
  (∀ a b : Byte, gmul a b = gmul b a) ∧
    (∀ a b c : Byte, gmul (gmul a b) c = gmul a (gmul b c)) ∧
    (∀ a b c : Byte, gmul a (b ^^^ c) = gmul a b ^^^ gmul a c) ∧
    (∀ a : Byte, gmul a 1 = a ∧ gmul a 0 = 0 ∧ gmul 0 a = 0) ∧
    (∀ a : Byte, a ≠ 0 → ∃! a' : Byte, gmul a a' = 1)

/-- R150, R151, R153, R154, with the field inverse of R145 (the tables are the spec's from general knowledge, log
15): SBOX is the affine image of the inverse; the tables invert each other; SBOX is a permutation without fixed and
opposite fixed points; RCON[k] = x^(k-1) for k in 1..10. -/
def Obligations.RomContents : Prop :=
  (∀ a : Byte, a ≠ 0 → gmul a (ginv a) = 1) ∧ ginv 0 = 0 ∧ (∀ x : Byte, sbox x = affine (ginv x)) ∧
    (∀ x : Byte, invSbox (sbox x) = x ∧ sbox (invSbox x) = x) ∧ Function.Bijective sbox ∧
    (∀ x : Byte, sbox x ≠ x ∧ sbox x ≠ x ^^^ 0xFF) ∧
    rconTable.length = 11 ∧ rcon 1 = 0x01 ∧ ∀ k, 1 ≤ k → k < 10 → rcon (k + 1) = xtime (rcon k)

/-! ## Round operations and block transforms (spec/42_block_transform.md) -/

/-- R208, which the spec derives from the round operations: the inverse pairs, and the pairs that commute. -/
def Obligations.RoundOperationsInvert : Prop :=
  ∀ (w : Schedule) (s : Block) (r : Nat),
    invSubBytes (subBytes s) = s ∧ invShiftRows (shiftRows s) = s ∧ invMixColumns (mixColumns s) = s ∧
      addRoundKey w r (addRoundKey w r s) = s ∧ subBytes (shiftRows s) = shiftRows (subBytes s) ∧
      invSubBytes (invShiftRows s) = invShiftRows (invSubBytes s)

/-- The matrix of R203. -/
def Sys2Proof.Claims.mixMatrix : List (List Byte) := [[2, 3, 1, 1], [1, 2, 3, 1], [1, 1, 2, 3], [3, 1, 1, 2]]

/-- The inverse mix matrix of R207. -/
def Sys2Proof.Claims.invMixMatrix : List (List Byte) :=
  [[14, 11, 13, 9], [9, 14, 11, 13], [13, 9, 14, 11], [11, 13, 9, 14]]

/-- Row r of a matrix times column c of a block: the XOR over k of gmul(M[r][k], s(k, c)) (R203). -/
def Sys2Proof.Claims.matrixTimes (m : List (List Byte)) (s : Block) (r c : Nat) : Byte :=
  [0, 1, 2, 3].foldl (fun acc k => acc ^^^ gmul ((m.getD r []).getD k 0) (s.at k c)) 0

/-- R201 to R207: what the round operations do to the byte at row r and column c: SubBytes and its inverse look it
up in SBOX and INV_SBOX, ShiftRows and its inverse rotate row r by r, MixColumns and its inverse multiply the old
column by the matrix, AddRoundKey(k) XORs in byte r of W[4k + c], most significant byte in row 0. The orientation of
the matrix is the spec's decision D35 (log 16). -/
def Obligations.RoundOperationFormulas : Prop :=
  ∀ (w : Schedule) (s : Block) (k r c : Nat), k < 15 → r < 4 → c < 4 →
    (subBytes s).at r c = sbox (s.at r c) ∧ (invSubBytes s).at r c = invSbox (s.at r c) ∧
      (shiftRows s).at r c = s.at r ((c + r) % 4) ∧ (invShiftRows s).at r c = s.at r ((c + 4 - r) % 4) ∧
      (mixColumns s).at r c = Sys2Proof.Claims.matrixTimes Sys2Proof.Claims.mixMatrix s r c ∧
      (invMixColumns s).at r c = Sys2Proof.Claims.matrixTimes Sys2Proof.Claims.invMixMatrix s r c ∧
      (addRoundKey w k s).at r c = s.at r c ^^^ beByte (schedWord w (4 * k + c)) r

/-- R210, R211: the round sequences, with AddRoundKey in every round 1..13 (C1) and InvMixColumns in every inverse
round 13..1 (C2). R212, R213: 56 micro-steps each, a granularity that is the spec's own choice (D25) and that the model
holds as data, not as state (log 3). -/
def Obligations.RoundSequences : Prop :=
  forwardSteps.length = 56 ∧ inverseSteps.length = 56 ∧
    ∀ (w : Schedule) (b : Block),
      cipher w b =
        addRoundKey w 14 (shiftRows (subBytes
          ((List.range' 1 13).foldl (fun s r => addRoundKey w r (mixColumns (shiftRows (subBytes s))))
            (addRoundKey w 0 b)))) ∧
      invCipher w b =
        addRoundKey w 0 (invSubBytes (invShiftRows
          ((List.range' 1 13).reverse.foldl (fun s r => invMixColumns (addRoundKey w r (invSubBytes (invShiftRows s))))
            (addRoundKey w 14 b))))

/-- R214, which the spec derives from R208, R210 and R211: InvCipher inverts Cipher and Cipher inverts InvCipher,
for the schedule of every key (and for every W): Cipher(·, W) is a permutation of the blocks. -/
def Obligations.BlockTransformsAreInverse : Prop :=
  (∀ (w : Schedule) (b : Block), invCipher w (cipher w b) = b ∧ cipher w (invCipher w b) = b) ∧
    ∀ k : Key, Function.Bijective (cipher (keyExpansion k))

/-! ## Key schedule (spec/41_key_schedule.md) -/

/-- R180: the words of KeyExpansion(K), by its recurrence. R181: RotWord rotates left by one byte, SubWord looks each
byte up in SBOX. -/
def Obligations.KeyExpansionRecurrence : Prop :=
  (∀ k : Key,
    (∀ j, j < 8 → schedWord (keyExpansion k) j =
      beWord (k.toList.getD (4 * j) 0) (k.toList.getD (4 * j + 1) 0) (k.toList.getD (4 * j + 2) 0)
        (k.toList.getD (4 * j + 3) 0)) ∧
    ∀ i, 8 ≤ i → i < 60 → schedWord (keyExpansion k) i =
      schedWord (keyExpansion k) (i - 8) ^^^
        (if i % 8 = 0 then
          subWord (rotWord (schedWord (keyExpansion k) (i - 1))) ^^^ ((rcon (i / 8)).setWidth 32 <<< 24)
        else if i % 8 = 4 then subWord (schedWord (keyExpansion k) (i - 1))
        else schedWord (keyExpansion k) (i - 1))) ∧
  (∀ t0 t1 t2 t3 : Byte, rotWord (beWord t0 t1 t2 t3) = beWord t1 t2 t3 t0 ∧
    subWord (beWord t0 t1 t2 t3) = beWord (sbox t0) (sbox t1) (sbox t2) (sbox t3)) ∧
  ∀ t : Word, rotWord t = t <<< 8 ||| t >>> 24

/-! ## CBC (spec/43_cbc.md) -/

/-- R263 items 1, 2 and 3, which the spec derives: decryption undoes encryption, both keep the length, and
the ciphertext of a prefix of the plaintext blocks is a prefix of the ciphertext. -/
def Obligations.ChainingRoundTrip : Prop :=
  ∀ (w : Schedule) (iv : Block) (p q : List Byte), p.length % 16 = 0 →
    cbcDecrypt w iv (cbcEncrypt w iv p) = p ∧ (cbcEncrypt w iv p).length = p.length ∧
      (cbcDecrypt w iv p).length = p.length ∧
      (q.length % 16 = 0 → (cbcEncrypt w iv (p ++ q)).take p.length = cbcEncrypt w iv p)

/-- R263 item 4, which the spec derives: with ciphertext block j changed, decryption changes plaintext block j,
changes block j+1 in exactly the bits flipped in block j, and changes no other block. -/
def Obligations.TamperedBlockStaysLocal : Prop :=
  ∀ (w : Schedule) (iv : Block) (cs : List Block) (j : Nat) (c c' : Block), cs[j]? = some c → c' ≠ c →
    (cbcDecBlocks w iv (cs.set j c'))[j]? ≠ (cbcDecBlocks w iv cs)[j]? ∧
    (cbcDecBlocks w iv (cs.set j c'))[j + 1]? = ((cbcDecBlocks w iv cs)[j + 1]?).map (fun p => p.xor (c.xor c')) ∧
    ∀ i, i ≠ j → i ≠ j + 1 → (cbcDecBlocks w iv (cs.set j c'))[i]? = (cbcDecBlocks w iv cs)[i]?

/-- R264, R183, with R212, R213: a pass over m blocks takes 1 + 58m micro-steps; they put out the blocks of
CbcEncrypt or CbcDecrypt, and leave in CHAIN the last ciphertext block (IV when there is none) and in S the last
block the cipher worked out. Key expansion takes 53 micro-steps. -/
def Obligations.PassMicroSteps : Prop :=
  1 + kxIndices.length = 53 ∧
    ∀ (w : Schedule) (iv : Block) (bs : List Block) (k : Pass),
      (encPassSteps bs).length = 1 + 58 * bs.length ∧ (decPassSteps bs).length = 1 + 58 * bs.length ∧
      runPass w iv (encPassSteps bs) k =
        ⟨(cbcEncBlocks w iv bs).getLastD k.blk, (cbcEncBlocks w iv bs).getLastD iv,
          k.out ++ cbcEncBlocks w iv bs⟩ ∧
      runPass w iv (decPassSteps bs) k =
        ⟨(bs.map (invCipher w)).getLastD k.blk, bs.getLastD iv, k.out ++ cbcDecBlocks w iv bs⟩

/-! ## Padding and text codecs (spec/44_padding.md, spec/45_text_codec.md) -/

/-- R282, which the spec derives from R280 and R281: the laws of Pad and Unpad. -/
def Obligations.PaddingLaws : Prop :=
  (∀ d : List Byte, unpad (pad d) = some d) ∧
    ∀ d e : List Byte, unpad d = some e →
      (∃ p, 1 ≤ p ∧ p ≤ 16 ∧ d = e ++ List.replicate p (BitVec.ofNat 8 p)) ∧ e.length ≤ d.length - 1

/-- R300: the value of every alphabet byte, and that no other byte has one; `sym` is the inverse of `val`. The value
order is the spec's from general knowledge (log 16). -/
def Obligations.AlphabetValues : Prop :=
  (∀ (ch : Byte) (v : BitVec 6), symVal ch = some v ↔
    (0x41 ≤ ch.toNat ∧ ch.toNat ≤ 0x5A ∧ v.toNat = ch.toNat - 0x41) ∨
    (0x61 ≤ ch.toNat ∧ ch.toNat ≤ 0x7A ∧ v.toNat = ch.toNat - 0x61 + 26) ∨
    (0x30 ≤ ch.toNat ∧ ch.toNat ≤ 0x39 ∧ v.toNat = ch.toNat - 0x30 + 52) ∨
    (ch = 0x2B ∧ v = 62) ∨ (ch = 0x2F ∧ v = 63)) ∧
  ∀ v : BitVec 6, symVal (sym v) = some v

/-- R302, which the spec derives from R301: the length and the characters of a token; '=' stands in its last group
only. -/
def Obligations.TokenShape : Prop :=
  b64Encode [] = [] ∧
    ∀ d : List Byte,
      (b64Encode d).length = 4 * ((d.length + 2) / 3) ∧ (∀ ch ∈ b64Encode d, inAlpha ch = true ∨ ch = 0x3D) ∧
        ∀ i, (b64Encode d)[i]? = some 0x3D → (b64Encode d).length ≤ i + 4

/-- R313, which the spec derives, and R312: the laws of B64Encode and B64Decode; decoding ends at the first byte
outside the alphabet, and that byte and everything after it are ignored. -/
def Obligations.TextCodecLaws : Prop :=
  (∀ d : List Byte, b64Decode (b64Encode d) = d) ∧
    (∀ t : List Byte, (b64Decode t).length ≤ 3 * (t.length / 4) + 2 ∧ (b64Decode t).length ≤ 3 * t.length / 4) ∧
    b64Decode [] = [] ∧
    ∀ (t u : List Byte) (ch : Byte), inAlpha ch = false → b64Decode (t ++ ch :: u) = b64Decode t

/-! ## What each command does -/

/-- R330: NOP completes; it changes STATUS only. That S, CHAIN and SCRATCH keep their values is the model's choice (log
12), and that a write to the input while it ran (R411) does not touch it is too (log 10). -/
def Obligations.NopResult : Prop :=
  ∀ s : State, ∃ t, exec .nop s = .next t ∧ t.Succeeded ∧ t.status = (if s.inst.cv then 0x0A else 0x02) ∧
    s.SameSurroundings t ∧ s.SameOut t ∧ t.inst = s.inst ∧ t.work = s.work ∧ t.result = s.result ∧ s.NothingOpen t

/-- R160: GFMUL leaves the product in RESULT; OUT_BUF, OUT_LEN and the instance are unchanged. After a write to the
input while it ran (R411) the product is open (log 10, the model's choice): RESULT[31:8] is still 0. That S, CHAIN
and SCRATCH keep their values is the model's choice (log 12). -/
def Obligations.GfmulResult : Prop :=
  ∀ (s : State) (a b : Byte), ∃ t, exec (.gfmul a b) s = .next t ∧ t.Succeeded ∧
    (s.inputChanged = false → t.result = (gmul a b).setWidth 32 ∧ s.NothingOpen t) ∧ t.result.toNat < 256 ∧
    s.SameSurroundings t ∧ s.SameOut t ∧ t.inst = s.inst ∧ t.work = s.work

/-- R186: NEW_CIPHER 32, 16 makes the instance of the key and IV in IN[0..48), with its schedule; IN_LEN plays no
part. That S, CHAIN and SCRATCH keep their values is the model's choice (log 12). -/
def Obligations.NewCipherResult : Prop :=
  ∀ (s : State) (k v : List Byte), k.length = 32 → v.length = 16 → s.inputChanged = false → s.HasBytes (k ++ v) →
    ∃ t, exec (.newCipher 32 16) s = .next t ∧ t.Succeeded ∧ t.status = 0x0A ∧
      t.inst.key.toList = k ∧ t.inst.iv.toBytes = v ∧ t.inst.w = keyExpansion t.inst.key ∧ t.inst.cv = true ∧
      s.SameSurroundings t ∧ s.SameOut t ∧ t.work = s.work ∧ t.result = s.result ∧ s.NothingOpen t

/-- R186, R187: NEW_CIPHER with a wrong length fails, the key's length checked first, and leaves no instance: KEY, IV
and W zero, CV = 0. That S, CHAIN and SCRATCH keep their values is the model's choice (log 12), and so is that a write
to the input while it ran (R411) does not touch it (log 10). -/
def Obligations.NewCipherFailure : Prop :=
  ∀ (s : State) (klen ivlen : Byte), klen ≠ 32 ∨ ivlen ≠ 16 →
    ∃ t, exec (.newCipher klen ivlen) s = .next t ∧
      t.Failed (if klen = 32 then .invalidIvLength else .invalidKeyLength) ∧
      t.status = (if klen = 32 then 0x26 else 0x16) ∧
      t.inst.key.toList = List.replicate 32 0 ∧ t.inst.iv.toBytes = List.replicate 16 0 ∧
      t.inst.w.toList = List.replicate 60 0 ∧ t.inst.cv = false ∧
      s.SameSurroundings t ∧ s.SameOut t ∧ t.work = s.work ∧ t.result = s.result ∧ s.NothingOpen t

/-- R220, R222: ENC_BLOCK and DEC_BLOCK of one block. -/
def Obligations.BlockCommandResults : Prop :=
  ∀ (s : State) (d : List Byte), s.TakesInput d → s.inst.cv = true → d.length = 16 →
    Delivers .encBlock s (cipher s.inst.w (Block.ofBytes d)).toBytes ∧
      Delivers .decBlock s (invCipher s.inst.w (Block.ofBytes d)).toBytes

/-- R266, R268: CBC_ENC and CBC_DEC of a block-aligned input, the empty one included. -/
def Obligations.ChainCommandResults : Prop :=
  ∀ (s : State) (d : List Byte), s.TakesInput d → s.inst.cv = true → d.length % 16 = 0 →
    Delivers .cbcEnc s (cbcEncrypt s.inst.w s.inst.iv d) ∧ Delivers .cbcDec s (cbcDecrypt s.inst.w s.inst.iv d)

/-- R280, R284: PAD appends p bytes of value p. It needs no instance. -/
def Obligations.PadResult : Prop :=
  ∀ (s : State) (d : List Byte), s.cfg.legal → s.TakesInput d → d.length < s.cfg.bufBytes →
    Delivers .pad s (d ++ List.replicate (16 - d.length % 16) (BitVec.ofNat 8 (16 - d.length % 16)))

/-- R281, R286: UNPAD takes a valid padding off, and fails with InvalidPadding when there is none. -/
def Obligations.UnpadResult : Prop :=
  ∀ (s : State) (d : List Byte), s.TakesInput d →
    (∀ (e : List Byte) (p : Nat), 1 ≤ p → p ≤ 16 → d = e ++ List.replicate p (BitVec.ofNat 8 p) →
      Delivers .unpad s e) ∧
    ((¬∃ (e : List Byte) (p : Nat), 1 ≤ p ∧ p ≤ 16 ∧ d = e ++ List.replicate p (BitVec.ofNat 8 p)) →
      FailsWith .unpad s .invalidPadding)

/-- R306, R314: B64_ENC of an input whose token fits, and B64_DEC of any input. -/
def Obligations.TextCommandResults : Prop :=
  ∀ (s : State) (d : List Byte), s.cfg.legal → s.TakesInput d →
    (4 * ((d.length + 2) / 3) ≤ s.cfg.bufBytes → Delivers .b64Enc s (b64Encode d)) ∧
      Delivers .b64Dec s (b64Decode d)

/-- R336, R332, R333: ENCRYPT gives the empty token for the empty input, else B64Encode(CbcEncrypt(Pad(inp))) when
the token fits. -/
def Obligations.EncryptResult : Prop :=
  ∀ (s : State) (d : List Byte), s.cfg.legal → s.TakesInput d → s.inst.cv = true →
    (d = [] → Delivers .encrypt s []) ∧
    (d ≠ [] → 4 * ((16 * (d.length / 16 + 1) + 2) / 3) ≤ s.cfg.bufBytes →
      Delivers .encrypt s (b64Encode (cbcEncrypt s.inst.w s.inst.iv (pad d))))

/-- R339, R332: DECRYPT gives the empty output for the empty input; else it decodes, checks the length, chains and
unpads, and fails at the stage that detects the error. -/
def Obligations.DecryptResult : Prop :=
  ∀ (s : State) (d : List Byte), s.TakesInput d → s.inst.cv = true →
    (d = [] → Delivers .decrypt s []) ∧
    (d ≠ [] → (b64Decode d).length % 16 ≠ 0 → FailsWith .decrypt s .invalidCiphertextLength) ∧
    (d ≠ [] → (b64Decode d).length % 16 = 0 → unpad (cbcDecrypt s.inst.w s.inst.iv (b64Decode d)) = none →
      FailsWith .decrypt s .invalidPadding) ∧
    (∀ e, d ≠ [] → (b64Decode d).length % 16 = 0 → unpad (cbcDecrypt s.inst.w s.inst.iv (b64Decode d)) = some e →
      Delivers .decrypt s e)

/-- R342, which the spec derives: for every instance and every plaintext whose token fits, ENCRYPT followed by
DECRYPT of the token, in any state that holds the token as its input and the same instance, returns the plaintext;
the empty plaintext too. -/
def Obligations.EncryptThenDecrypt : Prop :=
  ∀ (s : State) (p : List Byte), s.cfg.legal → s.inst.cv = true → s.TakesInput p →
    4 * ((16 * (p.length / 16 + 1) + 2) / 3) ≤ s.cfg.bufBytes →
    ∃ token, Delivers .encrypt s token ∧
      ∀ u : State, u.inst = s.inst → u.cfg = s.cfg → u.HasInput token → Delivers .decrypt u p

/-! ## Errors (spec/60_exceptions.md) -/

/-- R365, R366, R367 items 3, 4 and 6: an IN-class command fails with CapacityExceeded when n > BUF_BYTES; else a
KEY-class command fails with NoCipher when CV = 0; else the block and CBC commands fail on a wrong length. That the
error is this one also when a byte of the input range is unwritten, where R413 leaves the result unspecified, is the
model's choice (log 9). -/
def Obligations.InputChecksInOrder : Prop :=
  ∀ s : State, s.inputChanged = false →
    (∀ i, instrIsOut i = true → s.cfg.bufBytes < s.inLen.toNat → FailsWith i s .capacityExceeded) ∧
    (∀ i, instrIsKey i = true → s.inLen.toNat ≤ s.cfg.bufBytes → s.inst.cv = false → FailsWith i s .noCipher) ∧
    (s.inLen.toNat ≤ s.cfg.bufBytes → s.inst.cv = true →
      (s.inLen.toNat ≠ 16 →
        FailsWith .encBlock s .invalidInputLength ∧ FailsWith .decBlock s .invalidCiphertextLength) ∧
      (s.inLen.toNat % 16 ≠ 0 →
        FailsWith .cbcEnc s .invalidInputLength ∧ FailsWith .cbcDec s .invalidCiphertextLength))

/-- R366, R284: an output that would not fit, by its length known from n alone, is CapacityExceeded for ENCRYPT, PAD
and B64_ENC; for PAD this happens exactly when n >= BUF_BYTES. That the
error is this one also when a byte of the input range is unwritten, where R413 leaves the result unspecified, is the
model's choice (log 9). -/
def Obligations.OutputCapacity : Prop :=
  ∀ s : State, s.inputChanged = false → s.inLen.toNat ≤ s.cfg.bufBytes →
    (s.inst.cv = true → s.inLen.toNat ≠ 0 →
      s.cfg.bufBytes < 4 * ((16 * (s.inLen.toNat / 16 + 1) + 2) / 3) → FailsWith .encrypt s .capacityExceeded) ∧
    (s.cfg.bufBytes < 16 * (s.inLen.toNat / 16 + 1) → FailsWith .pad s .capacityExceeded) ∧
    (s.cfg.bufBytes < 4 * ((s.inLen.toNat + 2) / 3) → FailsWith .b64Enc s .capacityExceeded) ∧
    (s.cfg.legal → (s.cfg.bufBytes < 16 * (s.inLen.toNat / 16 + 1) ↔ s.cfg.bufBytes ≤ s.inLen.toNat))

/-- R361: a command ends in success or in an error its rule lists, in every state. That this holds also where the
result is unspecified, after a write to the input while it ran (R411) or with an unwritten input byte (R413), is the
model's choice (logs 10 and 9). -/
def Obligations.OnlyListedErrors : Prop :=
  ∀ (i : Instr) (s t : State), exec i s = .next t → t.Succeeded ∨ ∃ e ∈ listedErrors i, t.Failed e

/-- R370, R371: a failing command completes with one of its errors in STATUS, and changes beside STATUS and the
unobservable working registers only this: an OUT-class command clears OUT_BUF and OUT_LEN, NEW_CIPHER clears the
instance. That this holds also where the result is unspecified (R411, R413) is the model's choice (logs 10 and 9). -/
def Obligations.FailuresArePrecise : Prop :=
  ∀ (i : Instr) (s t : State), exec i s = .next t → t.err = true →
    (∃ e ∈ listedErrors i, t.Failed e) ∧ s.SameSurroundings t ∧ t.result = s.result ∧
      (instrIsOut i = true → t.inst = s.inst ∧ t.Holds []) ∧
      (instrIsOut i = false → instrIsKeyload i = true ∧ t.inst = CipherInst.cleared ∧ s.SameOut t)

/-- R46, which the spec derives from the command rules: the write map. In every state, a completed command has
changed KEY, IV, W and CV only if it is NEW_CIPHER, OUT_BUF and OUT_LEN only if it is OUT-class, RESULT only if it
is GFMUL, and never CMD_REG, IN_LEN or a byte of IN_BUF. That the map holds also where the result is unspecified (R411,
R413) is the model's choice (logs 10 and 9). -/
def Obligations.CommandsKeepTheWriteMap : Prop :=
  ∀ (i : Instr) (s t : State), exec i s = .next t →
    s.SameSurroundings t ∧ (instrIsKeyload i = false → t.inst = s.inst) ∧ (instrIsOut i = false → s.SameOut t) ∧
      (instrIsGfmul i = false → t.result = s.result)

/-- R188, R400: a step changes the cipher instance only by a reset or by running NEW_CIPHER. -/
def Obligations.OnlyNewCipherChangesTheInstance : Prop :=
  ∀ s t : State, step s = .next t → t.inst ≠ s.inst →
    s.nextTurn = .reset ∨
      (s.nextTurn = .core ∧ ∃ (w : Word) (klen ivlen : Byte), s.fsm = .exec w ∧ decode w = .ok (.newCipher klen ivlen))

/-- R104, R370: an accepted illegal word completes with IllegalCommand, changing STATUS only. That S, CHAIN and SCRATCH
keep their values is the model's choice (log 12), and so is that a write to the input while it ran (R411) does not
touch it (log 10). -/
def Obligations.IllegalWordsComplete : Prop :=
  ∀ (s : State) (w : Word), s.fsm = .exec w → (¬∃ i, decode w = .ok i) →
    ∃ t, s.coreTurn = .next t ∧ t.Failed .illegalCommand ∧ t.status = (if s.inst.cv then 0x6E else 0x66) ∧
      s.SameSurroundings t ∧ s.SameOut t ∧ t.inst = s.inst ∧ t.work = s.work ∧ t.result = s.result ∧ s.NothingOpen t

/-! ## Hazards (spec/70_reset_and_hazards.md) -/

/-- R413: a command whose input range holds a byte not written since reset completes with HAZARD_UNWRITTEN_INPUT
recorded; a range all written, the empty one among them, records nothing. The model takes the unwritten bytes as
free values (log 9), and judges the range as it stands when the command runs, at the core's turn (log 21). -/
def Obligations.UnwrittenInputIsRecorded : Prop :=
  ∀ (s : State) (i : Instr) (n : Nat),
    (instrIsOut i = true ∧ n = min s.inLen.toNat s.cfg.bufBytes) ∨ (i = .newCipher 32 16 ∧ n = 48) →
    ((∃ a, a < n ∧ s.inBuf.read a = none) →
      ∃ t, exec i s = .next t ∧ t.faults = Fault.hazardUnwrittenInput i :: s.faults) ∧
    ((∀ a, a < n → s.inBuf.read a ≠ none) → ∃ t, exec i s = .next t ∧ t.faults = s.faults)

/-- R41, R77, R411: a legal host write to IN_LEN or to the IN_BUF window takes effect: IN_LEN holds the value written,
the `n` bytes from the one addressed hold the bytes of the value. It changes no other state while the core is idle;
while BUSY = 1 it also records HAZARD_INPUT_WRITE at its line, marks the running command's input as changed (log 10,
the model's choice), and leaves the command running. -/
def Obligations.InputWritesTakeEffect : Prop :=
  ∀ (s : State) (a n : Nat) (v : Word), legalAccess s.cfg a n = true →
    (a = 0x00008 →
      (s.fsm = .idle → s.hostWrite a n v = { s with inLen := v }) ∧
      ∀ w, s.fsm = .exec w → s.hostWrite a n v =
        { s with
          inLen := v
          inputChanged := true
          faults := Fault.hazardInputWrite s.host.line :: s.faults }) ∧
    (0x10000 ≤ a → a < 0x10000 + s.cfg.bufBytes → ∃ m : Mem,
      (∀ b, m.read b =
        if a - 0x10000 ≤ b ∧ b < a - 0x10000 + n then some (v.extractLsb' (8 * (b - (a - 0x10000))) 8)
        else s.inBuf.read b) ∧
      (s.fsm = .idle → s.hostWrite a n v = { s with inBuf := m }) ∧
      ∀ w, s.fsm = .exec w → s.hostWrite a n v =
        { s with
          inBuf := m
          inputChanged := true
          faults := Fault.hazardInputWrite s.host.line :: s.faults })

/-- R79, R411, R413: a recorded model fault is never cleared, by any step (a reset keeps them too: log 14). -/
def Obligations.FaultsAreNeverCleared : Prop :=
  ∀ s t : State, step s = .next t → ∃ new, t.faults = new ++ s.faults

/-! ## The machine's steps -/

/-- R44, R105, R118: when the core's turn comes and the accepted word decodes to `i`, the step is exec of `i`, with
the turn taken off the list (log 3, log 4). The word placed by `withFetchWord` is run by the very next step (log 6).
R13, R400, R401: what the other turns of the core and a reset turn are: a core turn is `coreTurn`, which does nothing
while the core is idle, and a reset turn is `onReset`. Whose turn is next is the first of the list, else the core's
while it is busy, else the host's (log 4). -/
def Obligations.StepRunsTheAcceptedCommand : Prop :=
  (∀ (s : State) (w : Word) (i : Instr), s.nextTurn = .core → s.fsm = .exec w → decode w = .ok i →
    step s = exec i { s with turns := s.turns.tail }) ∧
  (∀ (s : State) (w : Word) (i : Instr), decode w = .ok i →
    step (s.withFetchWord 32 w.toNat) = exec i (s.accept w)) ∧
  ∀ s : State,
    (s.nextTurn = .core → step s = s.turnTaken.coreTurn ∧ (s.fsm = .idle → step s = .next s.turnTaken)) ∧
    (s.nextTurn = .reset → step s = .next s.turnTaken.onReset) ∧
    (∀ t ts, s.turns = t :: ts → s.nextTurn = t ∧ s.turnTaken = { s with turns := ts }) ∧
    (s.turns = [] → s.nextTurn = (if s.busy then .core else .host) ∧ s.turnTaken = s)

/-- R121: no step stops the machine, and the core's turn always completes the command it runs (one turn: log 3). -/
def Obligations.EveryCommandCompletes : Prop :=
  (∀ s : State, ∃ t, step s = .next t) ∧
    ∀ (s : State) (w : Word), s.fsm = .exec w → ∃ t, s.coreTurn = .next t ∧ t.fsm = .idle ∧ t.done = true

/-- R118, R119: a host write to CMD is accepted when the core is idle and dropped, changing nothing, when it is
busy. An accepted word that does not decode has its completion with IllegalCommand as its only step; the command is
held as FSM = EXEC of its word, without a position (log 3). -/
def Obligations.CommandWritesAcceptOrDrop : Prop :=
  ∀ (s : State) (v : Word),
    (s.fsm = .idle → ∃ t, s.hostWrite 0x00000 4 v = t ∧ t.cmdReg = v ∧ t.fsm = .exec v ∧ t.done = false ∧
      t.err = false ∧ t.errCode = 0 ∧ t.status = (if s.inst.cv then 0x09 else 0x01) ∧ t.inst = s.inst ∧
      t.work = s.work ∧ t.cfg = s.cfg ∧ t.inLen = s.inLen ∧ t.result = s.result ∧ t.host = s.host ∧
      t.turns = s.turns ∧ (∀ a, t.inBuf.read a = s.inBuf.read a) ∧ s.SameOut t ∧ s.NothingOpen t ∧
      ((¬∃ i, decode v = .ok i) → ∃ u, t.coreTurn = .next u ∧ u.Failed .illegalCommand)) ∧
    (∀ w, s.fsm = .exec w → s.hostWrite 0x00000 4 v = s)

/-- R130, R131: the host's turn performs the next line of its program: a write, a read, or `wait`, which is a read of
STATUS that stays on its line while BUSY = 1. A host with no line left does nothing (log 4, log 5). A write line writes
its number, or, for a name, the value of the newest response of that name (log 5). What the accesses themselves do,
other statements say. -/
def Obligations.HostTurnPerformsTheNextLine : Prop :=
  ∀ (s : State) (ls : List HostLine), s.nextTurn = .host →
    (∀ a n v, s.host.prog = .wr a n v :: ls → step s = .next ((s.turnTaken.hostWrite a n (s.valueOf v)).advance ls)) ∧
    (∀ name a n, s.host.prog = .rd name a n :: ls →
      step s = .next ((s.turnTaken.hostRead name a n).advance ls)) ∧
    (s.host.prog = .wait :: ls → s.busy = true → step s = .next (s.turnTaken.hostRead waitName 0x00004 4) ∧
      ∃ t, step s = .next t ∧ t.host.prog = .wait :: ls) ∧
    (s.host.prog = .wait :: ls → s.busy = false →
      step s = .next ((s.turnTaken.hostRead waitName 0x00004 4).advance ls) ∧
      ∃ t, step s = .next t ∧ t.host.prog = ls) ∧
    (s.host.prog = [] → step s = .next s.turnTaken) ∧
    (∀ v, s.valueOf (.lit v) = v) ∧
    (∀ newer r older, s.host.responses = newer ++ r :: older → (∀ q ∈ newer, q.name ≠ r.name) →
      s.valueOf (.name r.name) = r.value) ∧
    ∀ t : State, t.advance ls = { t with host := { t.host with prog := ls, line := t.host.line + 1 } }

/-! ## The host port (spec/20_memory.md) -/

/-- R78: the legal accesses, in the map of R71. -/
def Obligations.LegalAccesses : Prop :=
  ∀ (c : Config) (a n : Nat), c.legal →
    (legalAccess c a n = true ↔
      (n = 4 ∧ (a = 0x00000 ∨ a = 0x00004 ∨ a = 0x00008 ∨ a = 0x0000C ∨ a = 0x00010)) ∨
      ((n = 1 ∨ n = 4) ∧
        ((0x10000 ≤ a ∧ a < 0x10000 + c.bufBytes) ∨ (0x20000 ≤ a ∧ a < 0x20000 + c.bufBytes)) ∧
        (n = 4 → a % 4 = 0)))

/-- R79: an illegal access records BusError and changes nothing else; a read returns 0 with it. -/
def Obligations.IllegalAccessesAreBusErrors : Prop :=
  ∀ (s : State) (name : Name) (a n : Nat) (v : Word), legalAccess s.cfg a n = false →
    s.hostWrite a n v = { s with faults := Fault.busError s.host.line :: s.faults } ∧
      s.hostRead name a n =
        { s with
          faults := Fault.busError s.host.line :: s.faults
          host := { s.host with responses := ⟨s.host.line, name, 0, true⟩ :: s.host.responses } }

/-- R77, R80: a legal write to STATUS, OUT_LEN, RESULT or the OUT_BUF window changes nothing. -/
def Obligations.ReadOnlyWritesAreIgnored : Prop :=
  ∀ (s : State) (a n : Nat) (v : Word), s.cfg.legal → legalAccess s.cfg a n = true →
    (a = 0x00004 ∨ a = 0x0000C ∨ a = 0x00010 ∨ 0x20000 ≤ a) → s.hostWrite a n v = s

/-- Host reads of the window at `base` return the bytes of `m`: of a byte that has a value an 8-bit read, and of an
aligned word of four such bytes a 32-bit read, byte 0 in bits [7:0] (R76). -/
abbrev Sys2Proof.Claims.WindowReads (s : State) (m : Mem) (base : Nat) : Prop :=
  (∀ i v, i < s.cfg.bufBytes → m.read i = some v → s.readValue (base + i) 1 = v.setWidth 32) ∧
    ∀ k b0 b1 b2 b3, 4 * k < s.cfg.bufBytes → m.read (4 * k) = some b0 → m.read (4 * k + 1) = some b1 →
      m.read (4 * k + 2) = some b2 → m.read (4 * k + 3) = some b3 →
      s.readValue (base + 4 * k) 4 =
        b0.setWidth 32 ||| b1.setWidth 32 <<< 8 ||| b2.setWidth 32 <<< 16 ||| b3.setWidth 32 <<< 24

/-- R76, R80, R84 (with R39 to R43): host reads. A legal read gives the host the value `readValue` and changes
nothing else of the machine (the counter of free values moves on where a byte has no value: log 18); an illegal one
gives it 0 with a BusError. CMD, STATUS, IN_LEN and RESULT read their registers and IN_BUF its bytes, busy or idle.
OUT_LEN and OUT_BUF read their values while the core is idle and 0 while BUSY = 1, when CMD is the running command's
word and STATUS shows BUSY and CV alone. -/
def Obligations.HostReads : Prop :=
  ∀ s : State, s.cfg.legal →
    (∀ name a n, legalAccess s.cfg a n = true → ∃ k, s.hostRead name a n =
      { s with
        draws := k
        host := { s.host with responses := ⟨s.host.line, name, s.readValue a n, false⟩ :: s.host.responses } }) ∧
    (∀ name a n, legalAccess s.cfg a n = false →
      (s.hostRead name a n).host.responses = ⟨s.host.line, name, 0, true⟩ :: s.host.responses) ∧
    (s.readValue 0x00000 4 = s.cmdReg ∧ s.readValue 0x00004 4 = s.status ∧ s.readValue 0x00008 4 = s.inLen ∧
      s.readValue 0x00010 4 = s.result) ∧
    Sys2Proof.Claims.WindowReads s s.inBuf 0x10000 ∧
    (s.fsm = .idle → s.readValue 0x0000C 4 = s.outLen ∧ Sys2Proof.Claims.WindowReads s s.outBuf 0x20000) ∧
    ∀ w, s.fsm = .exec w → s.readValue 0x0000C 4 = 0 ∧
      (∀ a n, 0x20000 ≤ a → legalAccess s.cfg a n = true → s.readValue a n = 0) ∧
      (s.Inv → s.readValue 0x00000 4 = w ∧ s.readValue 0x00004 4 = (if s.inst.cv then 0x09 else 0x01))

/-- R75, R77: a 32-bit write covers bytes 4m to 4m+3, little-endian, and reads back; an 8-bit write of byte 4m+j
shows in bits [8j+7:8j] of a 32-bit read; no other byte changes, and no other state but the record of the hazard while
BUSY = 1 (R411) and the mark of the running command's input as changed (log 10). -/
def Obligations.HostPortByteOrder : Prop :=
  ∀ (s : State) (m : Nat) (v : Word), s.cfg.legal → 4 * m < s.cfg.bufBytes →
    (∀ j, j < 4 → (s.hostWrite (0x10000 + 4 * m) 4 v).inBuf.read (4 * m + j) = some (v.extractLsb' (8 * j) 8)) ∧
    (s.hostWrite (0x10000 + 4 * m) 4 v).readValue (0x10000 + 4 * m) 4 = v ∧
    (∀ a, a < 4 * m ∨ 4 * m + 4 ≤ a → (s.hostWrite (0x10000 + 4 * m) 4 v).inBuf.read a = s.inBuf.read a) ∧
    (∀ j, j < 4 →
      ((s.hostWrite (0x10000 + (4 * m + j)) 1 v).readValue (0x10000 + 4 * m) 4).extractLsb' (8 * j) 8 =
        v.extractLsb' 0 8) ∧
    (∀ j a, j < 4 → a ≠ 4 * m + j →
      (s.hostWrite (0x10000 + (4 * m + j)) 1 v).inBuf.read a = s.inBuf.read a) ∧
    (∀ j n, (n = 1 ∧ j < 4) ∨ (n = 4 ∧ j = 0) → ∃ b f c,
      s.hostWrite (0x10000 + (4 * m + j)) n v = { s with inBuf := b, faults := f, inputChanged := c } ∧
        (s.fsm = .idle → f = s.faults ∧ c = s.inputChanged) ∧
        ∀ w, s.fsm = .exec w → f = Fault.hazardInputWrite s.host.line :: s.faults ∧ c = true)

/-- The state after the writes among the lines given, performed in order. -/
def Sys2Proof.Claims.afterWrites : State → List HostLine → State
  | s, [] => s
  | s, .wr a n v :: ls => Sys2Proof.Claims.afterWrites (s.hostWrite a n (s.valueOf v)) ls
  | s, _ :: ls => Sys2Proof.Claims.afterWrites s ls

/-- R131, R75: four bytes loaded with one `wr8` each, or with one `wr32` of b0 | b1<<8 | b2<<16 | b3<<24 at an
offset that is a multiple of 4, leave the same state. -/
def Obligations.LoadByBytesOrByWord : Prop :=
  ∀ (s : State) (m : Nat) (b0 b1 b2 b3 : Byte), s.cfg.legal → s.fsm = .idle → 4 * m < s.cfg.bufBytes →
    Sys2Proof.Claims.afterWrites s (load (offIn + 4 * m) [b0, b1, b2, b3]) =
      s.hostWrite (offIn + 4 * m) 4
        (b0.setWidth 32 ||| b1.setWidth 32 <<< 8 ||| b2.setWidth 32 <<< 16 ||| b3.setWidth 32 <<< 24)

/-- R40: the layout of STATUS. -/
def Obligations.StatusLayout : Prop :=
  ∀ s : State,
    (s.status.getLsbD 0 = true ↔ ∃ w, s.fsm = .exec w) ∧ s.status.getLsbD 1 = s.done ∧ s.status.getLsbD 2 = s.err ∧
      s.status.getLsbD 3 = s.inst.cv ∧ s.status.extractLsb' 4 4 = s.errCode ∧ s.status.extractLsb' 8 24 = 0 ∧
      s.readValue 0x00004 4 = s.status

/-! ## Reset (spec/70_reset_and_hazards.md) -/

/-- R47, R400, R401, R73: what reset leaves, at power-on and at any later time: KEY, IV and W zero, CV = 0, the five
registers 0, FSM idle. R47 leaves the buffers' contents unspecified: that no byte of them has a value is the model's
rendering of it (logs 7 and 8). A step whose turn is the reset leads to such a state. That a reset keeps the buffer
size, the host and the turns to come is the model's choice (log 14). -/
def Obligations.ResetLeaves : Prop :=
  (∀ s t : State, (t = State.reset ∨ t = s.onReset) →
    t.inst.key.toList = List.replicate 32 0 ∧ t.inst.iv.toBytes = List.replicate 16 0 ∧
      t.inst.w.toList = List.replicate 60 0 ∧ t.inst.cv = false ∧ t.cmdReg = 0 ∧ t.status = 0 ∧ t.inLen = 0 ∧
      t.outLen = 0 ∧ t.result = 0 ∧ t.fsm = .idle ∧ (∀ a, t.inBuf.read a = none) ∧ (∀ a, t.outBuf.read a = none)) ∧
  ∀ s : State, (s.nextTurn = .reset → step s = .next s.turnTaken.onReset) ∧
    s.onReset.cfg = s.cfg ∧ s.onReset.host = s.host ∧ s.onReset.turns = s.turns

/-! ## Invariants and whole-machine rules -/

/-- R7, R34, R40, R42, R43, R72: the invariant of the machine holds at reset, with buffers of every size R7 allows;
State.reset takes one of them (log 1). -/
def Obligations.InvariantHoldsAtReset : Prop :=
  State.reset.Inv ∧ ∀ c : Config, c.legal → (State.resetWith c).Inv

/-- R7, R34, R37, R40, R42, R43, R72, R84, R411: every step from a state of the invariant leads to one: the buffers
keep their canonical form and size, STATUS a legal combination, W = KeyExpansion(KEY) while CV = 1. That an input is
open only after a recorded HAZARD_INPUT_WRITE is the model's way of R411 (log 10). -/
def Obligations.InvariantKept : Prop := ∀ s t : State, s.Inv → step s = .next t → t.Inv

/-- R35, R36, R37, R46: S, CHAIN and SCRATCH are never observed: a step from two states that differ in them only
leads to two states that differ in them only. -/
def Obligations.WorkingRegistersAreNeverObserved : Prop :=
  ∀ (s t : State) (k : Work), step s = .next t → ∃ k', step { s with work := k } = .next { t with work := k' }

/-- R31, R34, R82, R380: no host access reads or changes KEY, IV or W: a host turn from two states that differ in
them only leads to two states that differ in them only. -/
def Obligations.KeyMaterialIsPrivate : Prop :=
  ∀ (s : State) (k : Key) (iv : Block) (w : Schedule),
    State.hostTurn { s with inst := ⟨k, iv, w, s.inst.cv⟩ } = { s.hostTurn with inst := ⟨k, iv, w, s.inst.cv⟩ }
end

