-- ==== Sys2Proof/Laws/Codecs.lean ====
section
/-!
SUPPORT. Lengths of block sequences, chains and padded sequences.
-/

namespace Sys2Proof.Machine

@[simp] theorem Block.toBytes_length (b : Block) : b.toBytes.length = 16 := rfl

@[simp] theorem blocksOf_length (m : Nat) (d : List Byte) : (blocksOf m d).length = m := by
  induction m generalizing d with
  | zero => rfl
  | succ m ih => simp [blocksOf, ih]

@[simp] theorem bytesOf_length (bs : List Block) : (bytesOf bs).length = 16 * bs.length := by
  induction bs with
  | nil => rfl
  | cons b bs ih => simp only [bytesOf, List.flatMap_cons, List.length_append, Block.toBytes_length,
      List.length_cons] at ih ⊢; omega

@[simp] theorem cbcEncBlocks_length (w : Schedule) (iv : Block) (bs : List Block) :
    (cbcEncBlocks w iv bs).length = bs.length := by
  induction bs generalizing iv with
  | nil => rfl
  | cons b bs ih => simp [cbcEncBlocks, ih]

@[simp] theorem cbcDecBlocks_length (w : Schedule) (iv : Block) (bs : List Block) :
    (cbcDecBlocks w iv bs).length = bs.length := by
  induction bs generalizing iv with
  | nil => rfl
  | cons b bs ih => simp [cbcDecBlocks, ih]

theorem cbcEncrypt_length (w : Schedule) (iv : Block) (d : List Byte) :
    (cbcEncrypt w iv d).length = 16 * (d.length / 16) := by
  simp [cbcEncrypt, wholeBlocks]

theorem cbcDecrypt_length (w : Schedule) (iv : Block) (d : List Byte) :
    (cbcDecrypt w iv d).length = 16 * (d.length / 16) := by
  simp [cbcDecrypt, wholeBlocks]

theorem pad_length (d : List Byte) : (pad d).length = paddedLen d.length := by
  simp only [pad, paddedLen, padLen, List.length_append, List.length_replicate]; omega

/-- A block is what its 16 bytes give back. -/
theorem Block.ofBytes_toBytes (b : Block) : Block.ofBytes b.toBytes = b := rfl

end Sys2Proof.Machine
end

