-- ==== Sys2Proof/Laws/Memory.lean ====
section
/-!
SUPPORT. Byte memories: reading after writing, and that every memory operation keeps the canonical form
(`Mem.wf`).
-/

namespace Sys2Proof.Machine

/-! ## Cells -/

theorem lookup_setCell_self (a : Nat) (v : Byte) (cs : List Host.Cell) : (setCell a v cs).lookup a = some v := by
  induction cs with
  | nil => simp [setCell]
  | cons c cs ih =>
    obtain ⟨b, w⟩ := c
    by_cases h1 : b < a
    · have : (a == b) = false := by simp; omega
      simp [setCell, h1, List.lookup, this, ih]
    · by_cases h2 : b = a <;> simp [setCell, h1, h2]

theorem lookup_setCell_other {a b : Nat} (h : b ≠ a) (v : Byte) (cs : List Host.Cell) :
    (setCell a v cs).lookup b = cs.lookup b := by
  have hab : (b == a) = false := by simpa using h
  induction cs with
  | nil => simp [setCell, List.lookup, hab]
  | cons c cs ih =>
    obtain ⟨k, w⟩ := c
    by_cases h1 : k < a
    · by_cases hk : b = k <;> simp [setCell, h1, List.lookup_cons, hk, ih]
    · by_cases h2 : k = a
      · subst h2; simp [setCell, List.lookup_cons, hab]
      · simp [setCell, h1, h2, List.lookup_cons, hab]

theorem lookup_dropCell_self (a : Nat) (cs : List Host.Cell) : (dropCell a cs).lookup a = none := by
  induction cs with
  | nil => rfl
  | cons c cs ih =>
    obtain ⟨b, w⟩ := c
    by_cases h : b = a
    · simpa [dropCell, h] using ih
    · have : (a == b) = false := by simp; omega
      simp only [dropCell, List.filter_cons, bne_iff_ne, ne_eq, h, not_false_eq_true, if_true,
        List.lookup_cons, this] at ih ⊢
      exact ih

theorem lookup_dropCell_other {a b : Nat} (h : b ≠ a) (cs : List Host.Cell) :
    (dropCell a cs).lookup b = cs.lookup b := by
  induction cs with
  | nil => rfl
  | cons c cs ih =>
    obtain ⟨k, w⟩ := c
    by_cases hk : k = a
    · have hb : (b == a) = false := by simpa using h
      subst hk
      simpa [dropCell, List.lookup_cons, hb] using ih
    · by_cases hbk : b = k
      · simp [dropCell, hk, hbk]
      · simp only [dropCell, List.filter_cons, bne_iff_ne, ne_eq, hk, not_false_eq_true, if_true,
          List.lookup_cons] at ih ⊢
        simp [ih]

theorem mem_setCell {a : Nat} {v : Byte} {cs : List Host.Cell} {c : Host.Cell} (h : c ∈ setCell a v cs) :
    c = (a, v) ∨ c ∈ cs := by
  induction cs with
  | nil => simpa [setCell] using h
  | cons d cs ih =>
    by_cases h1 : d.1 < a
    · simp only [setCell, h1, if_true, List.mem_cons] at h ⊢
      rcases h with h | h
      · exact .inr (.inl h)
      · rcases ih h with h | h
        · exact .inl h
        · exact .inr (.inr h)
    · by_cases h2 : d.1 = a
      · simp only [setCell, if_neg h1, if_pos h2, List.mem_cons] at h ⊢; tauto
      · simp only [setCell, if_neg h1, if_neg h2, List.mem_cons] at h ⊢; tauto

theorem setCell_rising {a : Nat} {v : Byte} {cs : List Host.Cell} (h : cs.Pairwise fun x y => x.1 < y.1) :
    (setCell a v cs).Pairwise fun x y => x.1 < y.1 := by
  induction cs with
  | nil => simp [setCell]
  | cons d cs ih =>
    rw [List.pairwise_cons] at h
    by_cases h1 : d.1 < a
    · simp only [setCell, h1, if_true, List.pairwise_cons]
      refine ⟨fun c hc => ?_, ih h.2⟩
      rcases mem_setCell hc with rfl | hc
      · exact h1
      · exact h.1 c hc
    · by_cases h2 : d.1 = a
      · simp only [setCell, if_neg h1, if_pos h2, List.pairwise_cons]
        exact ⟨fun c hc => h2 ▸ h.1 c hc, h.2⟩
      · simp only [setCell, h1, h2, if_false, List.pairwise_cons, List.mem_cons, forall_eq_or_imp]
        exact ⟨⟨by omega, fun c hc => by have := h.1 c hc; omega⟩, h.1, h.2⟩

theorem mem_cellsFrom {a : Nat} {d : List Byte} {c : Host.Cell} (h : c ∈ cellsFrom a d) :
    a ≤ c.1 ∧ c.1 < a + d.length ∧ c.2 ≠ 0 := by
  induction d generalizing a with
  | nil => simp [cellsFrom] at h
  | cons v d ih =>
    simp only [List.length_cons]
    by_cases hv : v = 0
    · rw [cellsFrom, if_pos hv] at h
      have := ih h
      exact ⟨by omega, by omega, this.2.2⟩
    · rw [cellsFrom, if_neg hv, List.mem_cons] at h
      rcases h with rfl | h
      · exact ⟨le_rfl, by simp, hv⟩
      · have := ih h
        exact ⟨by omega, by omega, this.2.2⟩

theorem cellsFrom_rising (a : Nat) (d : List Byte) : (cellsFrom a d).Pairwise fun x y => x.1 < y.1 := by
  induction d generalizing a with
  | nil => simp [cellsFrom]
  | cons v d ih =>
    by_cases hv : v = 0
    · rw [cellsFrom, if_pos hv]; exact ih _
    · rw [cellsFrom, if_neg hv, List.pairwise_cons]
      exact ⟨fun c hc => by have := (mem_cellsFrom hc).1; omega, ih _⟩

theorem lookup_cellsFrom_below {a b : Nat} (d : List Byte) (h : b < a) : (cellsFrom a d).lookup b = none := by
  induction d generalizing a with
  | nil => rfl
  | cons v d ih =>
    by_cases hv : v = 0
    · rw [cellsFrom, if_pos hv]; exact ih (by omega)
    · have : (b == a) = false := by simp; omega
      rw [cellsFrom, if_neg hv, List.lookup_cons, this]; exact ih (by omega)

/-- The cell of index i of a zero-filled sequence, or none where the byte is zero. -/
theorem lookup_cellsFrom (a i : Nat) (d : List Byte) :
    ((cellsFrom a d).lookup (a + i)).getD 0 = d.getD i 0 := by
  induction d generalizing a i with
  | nil => simp [cellsFrom]
  | cons v d ih =>
    cases i with
    | zero =>
      by_cases hv : v = 0
      · rw [cellsFrom, if_pos hv, Nat.add_zero, lookup_cellsFrom_below d (by omega)]; simp [hv]
      · rw [cellsFrom, if_neg hv]; simp [List.lookup]
    | succ i =>
      have hne : (a + (i + 1) == a) = false := by simp
      have h := ih (a + 1) i
      rw [show a + 1 + i = a + (i + 1) by omega] at h
      by_cases hv : v = 0
      · rw [cellsFrom, if_pos hv]; simpa using h
      · rw [cellsFrom, if_neg hv, List.lookup_cons, hne]; simpa using h

/-! ## Reading -/

/-- A byte written reads back. -/
@[simp] theorem Mem.read_write_self (m : Mem) (a : Nat) (v : Byte) : (m.write a v).read a = some v := by
  unfold Mem.write
  split
  · rename_i h; simp [Mem.read, lookup_dropCell_self, h]
  · simp [Mem.read, lookup_setCell_self]

/-- A write leaves every other address alone. -/
theorem Mem.read_write_other (m : Mem) {a b : Nat} (h : b ≠ a) (v : Byte) : (m.write a v).read b = m.read b := by
  unfold Mem.write
  split <;> simp [Mem.read, lookup_dropCell_other h, lookup_setCell_other h]

@[simp] theorem Mem.read_unwritten (a : Nat) : Mem.unwritten.read a = none := rfl

/-- A zero-filled memory holds the sequence from index 0, and 0x00 past its end. -/
theorem Mem.read_zeroFilled (d : List Byte) (a : Nat) : (Mem.zeroFilled d).read a = some (d.getD a 0) := by
  have h := lookup_cellsFrom 0 a d
  rw [Nat.zero_add] at h
  unfold Mem.read Mem.zeroFilled
  split
  · rename_i v hv; rw [hv] at h; simpa using h
  · rename_i hv; rw [hv] at h; simpa using h

@[simp] theorem Mem.write_unlisted (m : Mem) (a : Nat) (v : Byte) : (m.write a v).unlisted = m.unlisted := by
  unfold Mem.write; split <;> rfl

@[simp] theorem Mem.zeroFilled_unlisted (d : List Byte) : (Mem.zeroFilled d).unlisted = some 0 := rfl

/-! ## The canonical form -/

theorem Mem.wf_unwritten : Mem.unwritten.wf := by decide

theorem Mem.wf_zeroFilled (d : List Byte) : (Mem.zeroFilled d).wf :=
  ⟨cellsFrom_rising 0 d, fun _ hc h => (mem_cellsFrom hc).2.2 (Option.some.inj h).symm⟩

/-- A write keeps the canonical form. -/
theorem Mem.wf_write {m : Mem} (h : m.wf) (a : Nat) (v : Byte) : (m.write a v).wf := by
  unfold Mem.write
  split
  · exact ⟨h.1.filter _, fun c hc => h.2 c (List.mem_of_mem_filter hc)⟩
  · rename_i hv
    refine ⟨setCell_rising h.1, fun c hc => ?_⟩
    rcases mem_setCell hc with rfl | hc
    · exact hv
    · exact h.2 c hc

/-- A write adds no cell but the one written. -/
theorem Mem.mem_write {m : Mem} {a : Nat} {v : Byte} {c : Host.Cell} (h : c ∈ (m.write a v).cells) :
    c = (a, v) ∨ c ∈ m.cells := by
  unfold Mem.write at h
  split at h
  · exact .inr (List.mem_of_mem_filter h)
  · exact mem_setCell h

/-- A host access to IN_BUF keeps the canonical form. -/
theorem wf_writeBytes {m : Mem} (h : m.wf) (i n : Nat) (v : Word) : (writeBytes m i n v).wf := by
  unfold writeBytes
  split
  · exact Mem.wf_write h _ _
  · exact Mem.wf_write (Mem.wf_write (Mem.wf_write (Mem.wf_write h _ _) _ _) _ _) _ _

@[simp] theorem writeBytes_unlisted (m : Mem) (i n : Nat) (v : Word) : (writeBytes m i n v).unlisted = m.unlisted := by
  unfold writeBytes; split <;> simp

/-- The cells of IN_BUF after a host access: those before, and those of the bytes written. -/
theorem mem_writeBytes {m : Mem} {i n : Nat} {v : Word} {c : Host.Cell} (h : c ∈ (writeBytes m i n v).cells) :
    c ∈ m.cells ∨ c.1 = i ∨ (n ≠ 1 ∧ i ≤ c.1 ∧ c.1 < i + 4) := by
  unfold writeBytes at h
  split at h
  · rcases Mem.mem_write h with rfl | h
    · exact .inr (.inl rfl)
    · exact .inl h
  · rename_i hn
    rcases Mem.mem_write h with rfl | h
    · exact .inr (.inr ⟨hn, by simp, by simp⟩)
    · rcases Mem.mem_write h with rfl | h
      · exact .inr (.inr ⟨hn, by simp, by simp⟩)
      · rcases Mem.mem_write h with rfl | h
        · exact .inr (.inr ⟨hn, by simp, by simp⟩)
        · rcases Mem.mem_write h with rfl | h
          · exact .inr (.inl rfl)
          · exact .inl h

end Sys2Proof.Machine
end

