-- ==== Sys2Proof/Laws/State.lean ====
section
/-!
SUPPORT. What each named update of the state does to each field: one lemma per field per update, true by unfolding
once, so that later proofs never unfold a record update.
-/

namespace Sys2Proof.Machine

/-! ## `State.putWork` -/

@[simp] theorem State.putWork_cfg (s : State) (k : Work) : (s.putWork k).cfg = s.cfg := rfl
@[simp] theorem State.putWork_inst (s : State) (k : Work) : (s.putWork k).inst = s.inst := rfl
@[simp] theorem State.putWork_work (s : State) (k : Work) : (s.putWork k).work = k := rfl
@[simp] theorem State.putWork_cmdReg (s : State) (k : Work) : (s.putWork k).cmdReg = s.cmdReg := rfl
@[simp] theorem State.putWork_done (s : State) (k : Work) : (s.putWork k).done = s.done := rfl
@[simp] theorem State.putWork_err (s : State) (k : Work) : (s.putWork k).err = s.err := rfl
@[simp] theorem State.putWork_errCode (s : State) (k : Work) : (s.putWork k).errCode = s.errCode := rfl
@[simp] theorem State.putWork_inLen (s : State) (k : Work) : (s.putWork k).inLen = s.inLen := rfl
@[simp] theorem State.putWork_outLen (s : State) (k : Work) : (s.putWork k).outLen = s.outLen := rfl
@[simp] theorem State.putWork_result (s : State) (k : Work) : (s.putWork k).result = s.result := rfl
@[simp] theorem State.putWork_fsm (s : State) (k : Work) : (s.putWork k).fsm = s.fsm := rfl
@[simp] theorem State.putWork_inBuf (s : State) (k : Work) : (s.putWork k).inBuf = s.inBuf := rfl
@[simp] theorem State.putWork_outBuf (s : State) (k : Work) : (s.putWork k).outBuf = s.outBuf := rfl
@[simp] theorem State.putWork_inputChanged (s : State) (k : Work) : (s.putWork k).inputChanged = s.inputChanged := rfl
@[simp] theorem State.putWork_faults (s : State) (k : Work) : (s.putWork k).faults = s.faults := rfl
@[simp] theorem State.putWork_host (s : State) (k : Work) : (s.putWork k).host = s.host := rfl
@[simp] theorem State.putWork_turns (s : State) (k : Work) : (s.putWork k).turns = s.turns := rfl
@[simp] theorem State.putWork_draws (s : State) (k : Work) : (s.putWork k).draws = s.draws := rfl

/-! ## `State.putInst` -/

@[simp] theorem State.putInst_cfg (s : State) (c : CipherInst) : (s.putInst c).cfg = s.cfg := rfl
@[simp] theorem State.putInst_inst (s : State) (c : CipherInst) : (s.putInst c).inst = c := rfl
@[simp] theorem State.putInst_work (s : State) (c : CipherInst) : (s.putInst c).work = s.work := rfl
@[simp] theorem State.putInst_cmdReg (s : State) (c : CipherInst) : (s.putInst c).cmdReg = s.cmdReg := rfl
@[simp] theorem State.putInst_done (s : State) (c : CipherInst) : (s.putInst c).done = s.done := rfl
@[simp] theorem State.putInst_err (s : State) (c : CipherInst) : (s.putInst c).err = s.err := rfl
@[simp] theorem State.putInst_errCode (s : State) (c : CipherInst) : (s.putInst c).errCode = s.errCode := rfl
@[simp] theorem State.putInst_inLen (s : State) (c : CipherInst) : (s.putInst c).inLen = s.inLen := rfl
@[simp] theorem State.putInst_outLen (s : State) (c : CipherInst) : (s.putInst c).outLen = s.outLen := rfl
@[simp] theorem State.putInst_result (s : State) (c : CipherInst) : (s.putInst c).result = s.result := rfl
@[simp] theorem State.putInst_fsm (s : State) (c : CipherInst) : (s.putInst c).fsm = s.fsm := rfl
@[simp] theorem State.putInst_inBuf (s : State) (c : CipherInst) : (s.putInst c).inBuf = s.inBuf := rfl
@[simp] theorem State.putInst_outBuf (s : State) (c : CipherInst) : (s.putInst c).outBuf = s.outBuf := rfl
@[simp] theorem State.putInst_inputChanged (s : State) (c : CipherInst) : (s.putInst c).inputChanged = s.inputChanged := rfl
@[simp] theorem State.putInst_faults (s : State) (c : CipherInst) : (s.putInst c).faults = s.faults := rfl
@[simp] theorem State.putInst_host (s : State) (c : CipherInst) : (s.putInst c).host = s.host := rfl
@[simp] theorem State.putInst_turns (s : State) (c : CipherInst) : (s.putInst c).turns = s.turns := rfl
@[simp] theorem State.putInst_draws (s : State) (c : CipherInst) : (s.putInst c).draws = s.draws := rfl

/-! ## `State.putResult` -/

@[simp] theorem State.putResult_cfg (s : State) (r : Byte) : (s.putResult r).cfg = s.cfg := rfl
@[simp] theorem State.putResult_inst (s : State) (r : Byte) : (s.putResult r).inst = s.inst := rfl
@[simp] theorem State.putResult_work (s : State) (r : Byte) : (s.putResult r).work = s.work := rfl
@[simp] theorem State.putResult_cmdReg (s : State) (r : Byte) : (s.putResult r).cmdReg = s.cmdReg := rfl
@[simp] theorem State.putResult_done (s : State) (r : Byte) : (s.putResult r).done = s.done := rfl
@[simp] theorem State.putResult_err (s : State) (r : Byte) : (s.putResult r).err = s.err := rfl
@[simp] theorem State.putResult_errCode (s : State) (r : Byte) : (s.putResult r).errCode = s.errCode := rfl
@[simp] theorem State.putResult_inLen (s : State) (r : Byte) : (s.putResult r).inLen = s.inLen := rfl
@[simp] theorem State.putResult_outLen (s : State) (r : Byte) : (s.putResult r).outLen = s.outLen := rfl
@[simp] theorem State.putResult_result (s : State) (r : Byte) : (s.putResult r).result = r.setWidth 32 := rfl
@[simp] theorem State.putResult_fsm (s : State) (r : Byte) : (s.putResult r).fsm = s.fsm := rfl
@[simp] theorem State.putResult_inBuf (s : State) (r : Byte) : (s.putResult r).inBuf = s.inBuf := rfl
@[simp] theorem State.putResult_outBuf (s : State) (r : Byte) : (s.putResult r).outBuf = s.outBuf := rfl
@[simp] theorem State.putResult_inputChanged (s : State) (r : Byte) : (s.putResult r).inputChanged = s.inputChanged := rfl
@[simp] theorem State.putResult_faults (s : State) (r : Byte) : (s.putResult r).faults = s.faults := rfl
@[simp] theorem State.putResult_host (s : State) (r : Byte) : (s.putResult r).host = s.host := rfl
@[simp] theorem State.putResult_turns (s : State) (r : Byte) : (s.putResult r).turns = s.turns := rfl
@[simp] theorem State.putResult_draws (s : State) (r : Byte) : (s.putResult r).draws = s.draws := rfl

/-! ## `State.putOut` -/

@[simp] theorem State.putOut_cfg (s : State) (out : List Byte) : (s.putOut out).cfg = s.cfg := rfl
@[simp] theorem State.putOut_inst (s : State) (out : List Byte) : (s.putOut out).inst = s.inst := rfl
@[simp] theorem State.putOut_work (s : State) (out : List Byte) : (s.putOut out).work = s.work := rfl
@[simp] theorem State.putOut_cmdReg (s : State) (out : List Byte) : (s.putOut out).cmdReg = s.cmdReg := rfl
@[simp] theorem State.putOut_done (s : State) (out : List Byte) : (s.putOut out).done = s.done := rfl
@[simp] theorem State.putOut_err (s : State) (out : List Byte) : (s.putOut out).err = s.err := rfl
@[simp] theorem State.putOut_errCode (s : State) (out : List Byte) : (s.putOut out).errCode = s.errCode := rfl
@[simp] theorem State.putOut_inLen (s : State) (out : List Byte) : (s.putOut out).inLen = s.inLen := rfl
@[simp] theorem State.putOut_outLen (s : State) (out : List Byte) : (s.putOut out).outLen = BitVec.ofNat 32 out.length := rfl
@[simp] theorem State.putOut_result (s : State) (out : List Byte) : (s.putOut out).result = s.result := rfl
@[simp] theorem State.putOut_fsm (s : State) (out : List Byte) : (s.putOut out).fsm = s.fsm := rfl
@[simp] theorem State.putOut_inBuf (s : State) (out : List Byte) : (s.putOut out).inBuf = s.inBuf := rfl
@[simp] theorem State.putOut_outBuf (s : State) (out : List Byte) : (s.putOut out).outBuf = Mem.zeroFilled out := rfl
@[simp] theorem State.putOut_inputChanged (s : State) (out : List Byte) : (s.putOut out).inputChanged = s.inputChanged := rfl
@[simp] theorem State.putOut_faults (s : State) (out : List Byte) : (s.putOut out).faults = s.faults := rfl
@[simp] theorem State.putOut_host (s : State) (out : List Byte) : (s.putOut out).host = s.host := rfl
@[simp] theorem State.putOut_turns (s : State) (out : List Byte) : (s.putOut out).turns = s.turns := rfl
@[simp] theorem State.putOut_draws (s : State) (out : List Byte) : (s.putOut out).draws = s.draws := rfl

/-! ## `State.record` -/

@[simp] theorem State.record_cfg (s : State) (f : Fault) : (s.record f).cfg = s.cfg := rfl
@[simp] theorem State.record_inst (s : State) (f : Fault) : (s.record f).inst = s.inst := rfl
@[simp] theorem State.record_work (s : State) (f : Fault) : (s.record f).work = s.work := rfl
@[simp] theorem State.record_cmdReg (s : State) (f : Fault) : (s.record f).cmdReg = s.cmdReg := rfl
@[simp] theorem State.record_done (s : State) (f : Fault) : (s.record f).done = s.done := rfl
@[simp] theorem State.record_err (s : State) (f : Fault) : (s.record f).err = s.err := rfl
@[simp] theorem State.record_errCode (s : State) (f : Fault) : (s.record f).errCode = s.errCode := rfl
@[simp] theorem State.record_inLen (s : State) (f : Fault) : (s.record f).inLen = s.inLen := rfl
@[simp] theorem State.record_outLen (s : State) (f : Fault) : (s.record f).outLen = s.outLen := rfl
@[simp] theorem State.record_result (s : State) (f : Fault) : (s.record f).result = s.result := rfl
@[simp] theorem State.record_fsm (s : State) (f : Fault) : (s.record f).fsm = s.fsm := rfl
@[simp] theorem State.record_inBuf (s : State) (f : Fault) : (s.record f).inBuf = s.inBuf := rfl
@[simp] theorem State.record_outBuf (s : State) (f : Fault) : (s.record f).outBuf = s.outBuf := rfl
@[simp] theorem State.record_inputChanged (s : State) (f : Fault) : (s.record f).inputChanged = s.inputChanged := rfl
@[simp] theorem State.record_faults (s : State) (f : Fault) : (s.record f).faults = f :: s.faults := rfl
@[simp] theorem State.record_host (s : State) (f : Fault) : (s.record f).host = s.host := rfl
@[simp] theorem State.record_turns (s : State) (f : Fault) : (s.record f).turns = s.turns := rfl
@[simp] theorem State.record_draws (s : State) (f : Fault) : (s.record f).draws = s.draws := rfl

/-! ## `State.drawn` -/

@[simp] theorem State.drawn_cfg (s : State) (k : Nat) : (s.drawn k).cfg = s.cfg := rfl
@[simp] theorem State.drawn_inst (s : State) (k : Nat) : (s.drawn k).inst = s.inst := rfl
@[simp] theorem State.drawn_work (s : State) (k : Nat) : (s.drawn k).work = s.work := rfl
@[simp] theorem State.drawn_cmdReg (s : State) (k : Nat) : (s.drawn k).cmdReg = s.cmdReg := rfl
@[simp] theorem State.drawn_done (s : State) (k : Nat) : (s.drawn k).done = s.done := rfl
@[simp] theorem State.drawn_err (s : State) (k : Nat) : (s.drawn k).err = s.err := rfl
@[simp] theorem State.drawn_errCode (s : State) (k : Nat) : (s.drawn k).errCode = s.errCode := rfl
@[simp] theorem State.drawn_inLen (s : State) (k : Nat) : (s.drawn k).inLen = s.inLen := rfl
@[simp] theorem State.drawn_outLen (s : State) (k : Nat) : (s.drawn k).outLen = s.outLen := rfl
@[simp] theorem State.drawn_result (s : State) (k : Nat) : (s.drawn k).result = s.result := rfl
@[simp] theorem State.drawn_fsm (s : State) (k : Nat) : (s.drawn k).fsm = s.fsm := rfl
@[simp] theorem State.drawn_inBuf (s : State) (k : Nat) : (s.drawn k).inBuf = s.inBuf := rfl
@[simp] theorem State.drawn_outBuf (s : State) (k : Nat) : (s.drawn k).outBuf = s.outBuf := rfl
@[simp] theorem State.drawn_inputChanged (s : State) (k : Nat) : (s.drawn k).inputChanged = s.inputChanged := rfl
@[simp] theorem State.drawn_faults (s : State) (k : Nat) : (s.drawn k).faults = s.faults := rfl
@[simp] theorem State.drawn_host (s : State) (k : Nat) : (s.drawn k).host = s.host := rfl
@[simp] theorem State.drawn_turns (s : State) (k : Nat) : (s.drawn k).turns = s.turns := rfl
@[simp] theorem State.drawn_draws (s : State) (k : Nat) : (s.drawn k).draws = s.draws + k := rfl

/-! ## `State.accept` -/

@[simp] theorem State.accept_cfg (s : State) (v : Word) : (s.accept v).cfg = s.cfg := rfl
@[simp] theorem State.accept_inst (s : State) (v : Word) : (s.accept v).inst = s.inst := rfl
@[simp] theorem State.accept_work (s : State) (v : Word) : (s.accept v).work = s.work := rfl
@[simp] theorem State.accept_cmdReg (s : State) (v : Word) : (s.accept v).cmdReg = v := rfl
@[simp] theorem State.accept_done (s : State) (v : Word) : (s.accept v).done = false := rfl
@[simp] theorem State.accept_err (s : State) (v : Word) : (s.accept v).err = false := rfl
@[simp] theorem State.accept_errCode (s : State) (v : Word) : (s.accept v).errCode = 0 := rfl
@[simp] theorem State.accept_inLen (s : State) (v : Word) : (s.accept v).inLen = s.inLen := rfl
@[simp] theorem State.accept_outLen (s : State) (v : Word) : (s.accept v).outLen = s.outLen := rfl
@[simp] theorem State.accept_result (s : State) (v : Word) : (s.accept v).result = s.result := rfl
@[simp] theorem State.accept_fsm (s : State) (v : Word) : (s.accept v).fsm = .exec v := rfl
@[simp] theorem State.accept_inBuf (s : State) (v : Word) : (s.accept v).inBuf = s.inBuf := rfl
@[simp] theorem State.accept_outBuf (s : State) (v : Word) : (s.accept v).outBuf = s.outBuf := rfl
@[simp] theorem State.accept_inputChanged (s : State) (v : Word) : (s.accept v).inputChanged = false := rfl
@[simp] theorem State.accept_faults (s : State) (v : Word) : (s.accept v).faults = s.faults := rfl
@[simp] theorem State.accept_host (s : State) (v : Word) : (s.accept v).host = s.host := rfl
@[simp] theorem State.accept_turns (s : State) (v : Word) : (s.accept v).turns = s.turns := rfl
@[simp] theorem State.accept_draws (s : State) (v : Word) : (s.accept v).draws = s.draws := rfl

/-! ## `State.finish` -/

@[simp] theorem State.finish_cfg (s : State) (e : Option ErrCode) : (s.finish e).cfg = s.cfg := rfl
@[simp] theorem State.finish_inst (s : State) (e : Option ErrCode) : (s.finish e).inst = s.inst := rfl
@[simp] theorem State.finish_work (s : State) (e : Option ErrCode) : (s.finish e).work = s.work := rfl
@[simp] theorem State.finish_cmdReg (s : State) (e : Option ErrCode) : (s.finish e).cmdReg = s.cmdReg := rfl
@[simp] theorem State.finish_done (s : State) (e : Option ErrCode) : (s.finish e).done = true := rfl
@[simp] theorem State.finish_err (s : State) (e : Option ErrCode) : (s.finish e).err = e.isSome := rfl
@[simp] theorem State.finish_errCode (s : State) (e : Option ErrCode) : (s.finish e).errCode = errCodeOf e := rfl
@[simp] theorem State.finish_inLen (s : State) (e : Option ErrCode) : (s.finish e).inLen = s.inLen := rfl
@[simp] theorem State.finish_outLen (s : State) (e : Option ErrCode) : (s.finish e).outLen = s.outLen := rfl
@[simp] theorem State.finish_result (s : State) (e : Option ErrCode) : (s.finish e).result = s.result := rfl
@[simp] theorem State.finish_fsm (s : State) (e : Option ErrCode) : (s.finish e).fsm = .idle := rfl
@[simp] theorem State.finish_inBuf (s : State) (e : Option ErrCode) : (s.finish e).inBuf = s.inBuf := rfl
@[simp] theorem State.finish_outBuf (s : State) (e : Option ErrCode) : (s.finish e).outBuf = s.outBuf := rfl
@[simp] theorem State.finish_inputChanged (s : State) (e : Option ErrCode) : (s.finish e).inputChanged = false := rfl
@[simp] theorem State.finish_faults (s : State) (e : Option ErrCode) : (s.finish e).faults = s.faults := rfl
@[simp] theorem State.finish_host (s : State) (e : Option ErrCode) : (s.finish e).host = s.host := rfl
@[simp] theorem State.finish_turns (s : State) (e : Option ErrCode) : (s.finish e).turns = s.turns := rfl
@[simp] theorem State.finish_draws (s : State) (e : Option ErrCode) : (s.finish e).draws = s.draws := rfl

/-! ## `State.respond` -/

@[simp] theorem State.respond_cfg (s : State) (n : Name) (v : Word) (b : Bool) : (s.respond n v b).cfg = s.cfg := rfl
@[simp] theorem State.respond_inst (s : State) (n : Name) (v : Word) (b : Bool) : (s.respond n v b).inst = s.inst := rfl
@[simp] theorem State.respond_work (s : State) (n : Name) (v : Word) (b : Bool) : (s.respond n v b).work = s.work := rfl
@[simp] theorem State.respond_cmdReg (s : State) (n : Name) (v : Word) (b : Bool) : (s.respond n v b).cmdReg = s.cmdReg := rfl
@[simp] theorem State.respond_done (s : State) (n : Name) (v : Word) (b : Bool) : (s.respond n v b).done = s.done := rfl
@[simp] theorem State.respond_err (s : State) (n : Name) (v : Word) (b : Bool) : (s.respond n v b).err = s.err := rfl
@[simp] theorem State.respond_errCode (s : State) (n : Name) (v : Word) (b : Bool) : (s.respond n v b).errCode = s.errCode := rfl
@[simp] theorem State.respond_inLen (s : State) (n : Name) (v : Word) (b : Bool) : (s.respond n v b).inLen = s.inLen := rfl
@[simp] theorem State.respond_outLen (s : State) (n : Name) (v : Word) (b : Bool) : (s.respond n v b).outLen = s.outLen := rfl
@[simp] theorem State.respond_result (s : State) (n : Name) (v : Word) (b : Bool) : (s.respond n v b).result = s.result := rfl
@[simp] theorem State.respond_fsm (s : State) (n : Name) (v : Word) (b : Bool) : (s.respond n v b).fsm = s.fsm := rfl
@[simp] theorem State.respond_inBuf (s : State) (n : Name) (v : Word) (b : Bool) : (s.respond n v b).inBuf = s.inBuf := rfl
@[simp] theorem State.respond_outBuf (s : State) (n : Name) (v : Word) (b : Bool) : (s.respond n v b).outBuf = s.outBuf := rfl
@[simp] theorem State.respond_inputChanged (s : State) (n : Name) (v : Word) (b : Bool) : (s.respond n v b).inputChanged = s.inputChanged := rfl
@[simp] theorem State.respond_faults (s : State) (n : Name) (v : Word) (b : Bool) : (s.respond n v b).faults = s.faults := rfl
@[simp] theorem State.respond_host (s : State) (n : Name) (v : Word) (b : Bool) : (s.respond n v b).host = ⟨s.host.prog, s.host.line, ⟨s.host.line, n, v, b⟩ :: s.host.responses⟩ := rfl
@[simp] theorem State.respond_turns (s : State) (n : Name) (v : Word) (b : Bool) : (s.respond n v b).turns = s.turns := rfl
@[simp] theorem State.respond_draws (s : State) (n : Name) (v : Word) (b : Bool) : (s.respond n v b).draws = s.draws := rfl

/-! ## `State.advance` -/

@[simp] theorem State.advance_cfg (s : State) (ls : List HostLine) : (s.advance ls).cfg = s.cfg := rfl
@[simp] theorem State.advance_inst (s : State) (ls : List HostLine) : (s.advance ls).inst = s.inst := rfl
@[simp] theorem State.advance_work (s : State) (ls : List HostLine) : (s.advance ls).work = s.work := rfl
@[simp] theorem State.advance_cmdReg (s : State) (ls : List HostLine) : (s.advance ls).cmdReg = s.cmdReg := rfl
@[simp] theorem State.advance_done (s : State) (ls : List HostLine) : (s.advance ls).done = s.done := rfl
@[simp] theorem State.advance_err (s : State) (ls : List HostLine) : (s.advance ls).err = s.err := rfl
@[simp] theorem State.advance_errCode (s : State) (ls : List HostLine) : (s.advance ls).errCode = s.errCode := rfl
@[simp] theorem State.advance_inLen (s : State) (ls : List HostLine) : (s.advance ls).inLen = s.inLen := rfl
@[simp] theorem State.advance_outLen (s : State) (ls : List HostLine) : (s.advance ls).outLen = s.outLen := rfl
@[simp] theorem State.advance_result (s : State) (ls : List HostLine) : (s.advance ls).result = s.result := rfl
@[simp] theorem State.advance_fsm (s : State) (ls : List HostLine) : (s.advance ls).fsm = s.fsm := rfl
@[simp] theorem State.advance_inBuf (s : State) (ls : List HostLine) : (s.advance ls).inBuf = s.inBuf := rfl
@[simp] theorem State.advance_outBuf (s : State) (ls : List HostLine) : (s.advance ls).outBuf = s.outBuf := rfl
@[simp] theorem State.advance_inputChanged (s : State) (ls : List HostLine) : (s.advance ls).inputChanged = s.inputChanged := rfl
@[simp] theorem State.advance_faults (s : State) (ls : List HostLine) : (s.advance ls).faults = s.faults := rfl
@[simp] theorem State.advance_host (s : State) (ls : List HostLine) : (s.advance ls).host = ⟨ls, s.host.line + 1, s.host.responses⟩ := rfl
@[simp] theorem State.advance_turns (s : State) (ls : List HostLine) : (s.advance ls).turns = s.turns := rfl
@[simp] theorem State.advance_draws (s : State) (ls : List HostLine) : (s.advance ls).draws = s.draws := rfl

/-! ## `State.turnTaken` -/

@[simp] theorem State.turnTaken_cfg (s : State) : s.turnTaken.cfg = s.cfg := rfl
@[simp] theorem State.turnTaken_inst (s : State) : s.turnTaken.inst = s.inst := rfl
@[simp] theorem State.turnTaken_work (s : State) : s.turnTaken.work = s.work := rfl
@[simp] theorem State.turnTaken_cmdReg (s : State) : s.turnTaken.cmdReg = s.cmdReg := rfl
@[simp] theorem State.turnTaken_done (s : State) : s.turnTaken.done = s.done := rfl
@[simp] theorem State.turnTaken_err (s : State) : s.turnTaken.err = s.err := rfl
@[simp] theorem State.turnTaken_errCode (s : State) : s.turnTaken.errCode = s.errCode := rfl
@[simp] theorem State.turnTaken_inLen (s : State) : s.turnTaken.inLen = s.inLen := rfl
@[simp] theorem State.turnTaken_outLen (s : State) : s.turnTaken.outLen = s.outLen := rfl
@[simp] theorem State.turnTaken_result (s : State) : s.turnTaken.result = s.result := rfl
@[simp] theorem State.turnTaken_fsm (s : State) : s.turnTaken.fsm = s.fsm := rfl
@[simp] theorem State.turnTaken_inBuf (s : State) : s.turnTaken.inBuf = s.inBuf := rfl
@[simp] theorem State.turnTaken_outBuf (s : State) : s.turnTaken.outBuf = s.outBuf := rfl
@[simp] theorem State.turnTaken_inputChanged (s : State) : s.turnTaken.inputChanged = s.inputChanged := rfl
@[simp] theorem State.turnTaken_faults (s : State) : s.turnTaken.faults = s.faults := rfl
@[simp] theorem State.turnTaken_host (s : State) : s.turnTaken.host = s.host := rfl
@[simp] theorem State.turnTaken_turns (s : State) : s.turnTaken.turns = s.turns.tail := rfl
@[simp] theorem State.turnTaken_draws (s : State) : s.turnTaken.draws = s.draws := rfl

/-! ## `State.onReset` -/

@[simp] theorem State.onReset_cfg (s : State) : s.onReset.cfg = s.cfg := rfl
@[simp] theorem State.onReset_inst (s : State) : s.onReset.inst = CipherInst.cleared := rfl
@[simp] theorem State.onReset_work (s : State) : s.onReset.work = Work.cleared := rfl
@[simp] theorem State.onReset_cmdReg (s : State) : s.onReset.cmdReg = 0 := rfl
@[simp] theorem State.onReset_done (s : State) : s.onReset.done = false := rfl
@[simp] theorem State.onReset_err (s : State) : s.onReset.err = false := rfl
@[simp] theorem State.onReset_errCode (s : State) : s.onReset.errCode = 0 := rfl
@[simp] theorem State.onReset_inLen (s : State) : s.onReset.inLen = 0 := rfl
@[simp] theorem State.onReset_outLen (s : State) : s.onReset.outLen = 0 := rfl
@[simp] theorem State.onReset_result (s : State) : s.onReset.result = 0 := rfl
@[simp] theorem State.onReset_fsm (s : State) : s.onReset.fsm = .idle := rfl
@[simp] theorem State.onReset_inBuf (s : State) : s.onReset.inBuf = Mem.unwritten := rfl
@[simp] theorem State.onReset_outBuf (s : State) : s.onReset.outBuf = Mem.unwritten := rfl
@[simp] theorem State.onReset_inputChanged (s : State) : s.onReset.inputChanged = false := rfl
@[simp] theorem State.onReset_faults (s : State) : s.onReset.faults = s.faults := rfl
@[simp] theorem State.onReset_host (s : State) : s.onReset.host = s.host := rfl
@[simp] theorem State.onReset_turns (s : State) : s.onReset.turns = s.turns := rfl
@[simp] theorem State.onReset_draws (s : State) : s.onReset.draws = s.draws := rfl

/-! ## BUSY -/

@[simp] theorem State.busy_of_idle (s : State) (h : s.fsm = .idle) : s.busy = false := by
  simp [State.busy, h]

@[simp] theorem State.busy_of_exec (s : State) (w : Word) (h : s.fsm = .exec w) : s.busy = true := by
  simp [State.busy, h]

/-- BUSY = 1 exactly when FSM = EXEC (spec/10_state.md R44). -/
theorem State.busy_iff (s : State) : s.busy = true ↔ ∃ w, s.fsm = .exec w := by
  unfold State.busy
  split <;> simp_all

@[simp] theorem State.finish_busy (s : State) (e : Option ErrCode) : (s.finish e).busy = false := rfl

@[simp] theorem State.accept_busy (s : State) (v : Word) : (s.accept v).busy = true := rfl

/-- The updates that leave FSM alone leave BUSY alone. -/
theorem State.busy_congr {s t : State} (h : t.fsm = s.fsm) : t.busy = s.busy := by
  simp [State.busy, h]

end Sys2Proof.Machine
end

