-- ==== Sys2Proof/Laws/Commands.lean ====
section
/-!
SUPPORT. The shared operations of commands, each said once: reading the input, committing an outcome.
-/

namespace Sys2Proof.Machine

/-! ## Reading the input (spec/30_encoding.md R110, spec/70_reset_and_hazards.md R413) -/

@[simp] theorem State.readInput_cfg (s : State) (i : Instr) (k : Nat) : (s.readInput i k).cfg = s.cfg := by
  unfold State.readInput; split <;> split <;> rfl
@[simp] theorem State.readInput_inst (s : State) (i : Instr) (k : Nat) : (s.readInput i k).inst = s.inst := by
  unfold State.readInput; split <;> split <;> rfl
@[simp] theorem State.readInput_work (s : State) (i : Instr) (k : Nat) : (s.readInput i k).work = s.work := by
  unfold State.readInput; split <;> split <;> rfl
@[simp] theorem State.readInput_cmdReg (s : State) (i : Instr) (k : Nat) : (s.readInput i k).cmdReg = s.cmdReg := by
  unfold State.readInput; split <;> split <;> rfl
@[simp] theorem State.readInput_done (s : State) (i : Instr) (k : Nat) : (s.readInput i k).done = s.done := by
  unfold State.readInput; split <;> split <;> rfl
@[simp] theorem State.readInput_err (s : State) (i : Instr) (k : Nat) : (s.readInput i k).err = s.err := by
  unfold State.readInput; split <;> split <;> rfl
@[simp] theorem State.readInput_errCode (s : State) (i : Instr) (k : Nat) : (s.readInput i k).errCode = s.errCode := by
  unfold State.readInput; split <;> split <;> rfl
@[simp] theorem State.readInput_inLen (s : State) (i : Instr) (k : Nat) : (s.readInput i k).inLen = s.inLen := by
  unfold State.readInput; split <;> split <;> rfl
@[simp] theorem State.readInput_outLen (s : State) (i : Instr) (k : Nat) : (s.readInput i k).outLen = s.outLen := by
  unfold State.readInput; split <;> split <;> rfl
@[simp] theorem State.readInput_result (s : State) (i : Instr) (k : Nat) : (s.readInput i k).result = s.result := by
  unfold State.readInput; split <;> split <;> rfl
@[simp] theorem State.readInput_fsm (s : State) (i : Instr) (k : Nat) : (s.readInput i k).fsm = s.fsm := by
  unfold State.readInput; split <;> split <;> rfl
@[simp] theorem State.readInput_inBuf (s : State) (i : Instr) (k : Nat) : (s.readInput i k).inBuf = s.inBuf := by
  unfold State.readInput; split <;> split <;> rfl
@[simp] theorem State.readInput_outBuf (s : State) (i : Instr) (k : Nat) : (s.readInput i k).outBuf = s.outBuf := by
  unfold State.readInput; split <;> split <;> rfl
@[simp] theorem State.readInput_inputChanged (s : State) (i : Instr) (k : Nat) : (s.readInput i k).inputChanged = s.inputChanged := by
  unfold State.readInput; split <;> split <;> rfl
@[simp] theorem State.readInput_host (s : State) (i : Instr) (k : Nat) : (s.readInput i k).host = s.host := by
  unfold State.readInput; split <;> split <;> rfl
@[simp] theorem State.readInput_turns (s : State) (i : Instr) (k : Nat) : (s.readInput i k).turns = s.turns := by
  unfold State.readInput; split <;> split <;> rfl

/-- Reading an input range adds at most its own hazard to the recorded faults. -/
theorem State.readInput_faults (s : State) (i : Instr) (k : Nat) :
    (s.readInput i k).faults =
      if s.unwrittenBelow k then Fault.hazardUnwrittenInput i :: s.faults else s.faults := by
  unfold State.readInput
  split <;> split <;> rfl

/-- A range whose bytes are all written, of an input no host write touched, is read without a trace. -/
theorem State.readInput_eq_self {s : State} {k : Nat} (hw : s.unwrittenBelow k = false)
    (hc : s.inputChanged = false) (i : Instr) : s.readInput i k = s := by
  simp [State.readInput, hw, hc]

theorem State.unwrittenBelow_eq_false {s : State} {k : Nat} :
    s.unwrittenBelow k = false ↔ ∀ i, i < k → (s.inBuf.read i).isSome = true := by
  simp [State.unwrittenBelow, List.any_eq_false, Option.isSome_iff_ne_none]

/-- The bytes the host wrote are the bytes the command reads. -/
theorem State.inBytes_of_hasBytes {s : State} {d : List Byte} (hc : s.inputChanged = false) (h : s.HasBytes d) :
    s.inBytes d.length = d := by
  apply List.ext_getElem
  · simp [State.inBytes]
  · intro i h1 h2
    have := h i h2
    simp [State.inBytes, State.inByte, hc, this, List.getElem?_eq_getElem h2]

theorem State.unwrittenBelow_of_hasBytes {s : State} {d : List Byte} (h : s.HasBytes d) :
    s.unwrittenBelow d.length = false :=
  State.unwrittenBelow_eq_false.2 fun i hi => by simp [h i hi]

theorem State.rangeLen_of_takesInput {s : State} {d : List Byte} (h : s.TakesInput d) : s.rangeLen = d.length := by
  simp [State.rangeLen, h.1.2.1, h.2]

/-- A command whose input is `d` reads `d`, and leaves no trace of reading it. -/
theorem State.readInput_of_takesInput {s : State} {d : List Byte} (h : s.TakesInput d) (i : Instr) :
    s.readInput i s.rangeLen = s := by
  rw [State.rangeLen_of_takesInput h]
  exact State.readInput_eq_self (State.unwrittenBelow_of_hasBytes h.1.2.2) h.1.1 i

theorem State.ctx_of_takesInput {s : State} {d : List Byte} (h : s.TakesInput d) :
    s.ctx = ⟨s.cfg.bufBytes, s.inst, d.length, d, s.work⟩ := by
  have h1 := State.rangeLen_of_takesInput h
  simp [State.ctx, State.inCount, State.input, h.1.1, h.1.2.1, h1, State.inBytes_of_hasBytes h.1.1 h.1.2.2]

/-- The input a rule is given has length n whenever n fits the buffer. -/
theorem State.input_length {s : State} (h : s.inCount ≤ s.cfg.bufBytes) : s.input.length = s.inCount := by
  unfold State.inCount at h ⊢
  unfold State.input
  split
  · rfl
  · rename_i hc
    simp only [hc] at h
    simpa [State.inBytes, State.rangeLen] using h

/-! ## Committing an outcome (spec/30_encoding.md R120, spec/60_exceptions.md R370) -/

theorem State.commitOut_ok (s : State) (k : Work) (out : List Byte) :
    s.commitOut k (.ok out) = ((s.putWork k).putOut out).finish none := rfl

theorem State.commitOut_error (s : State) (k : Work) (e : ErrCode) :
    s.commitOut k (.error e) = ((s.putWork k).putOut []).finish (some e) := rfl

/-- The bytes an OUT-class command leaves in OUT_BUF: its output, or nothing on failure. -/
def outputOf : Except ErrCode (List Byte) → List Byte
  | .ok out => out
  | .error _ => []

/-- The error an outcome carries. -/
def errorOf : Except ErrCode (List Byte) → Option ErrCode
  | .ok _ => none
  | .error e => some e

/-- A commit is one completion: the working registers, OUT_BUF and OUT_LEN written, STATUS by the outcome. -/
theorem State.commitOut_eq (s : State) (k : Work) (r : Except ErrCode (List Byte)) :
    s.commitOut k r = ((s.putWork k).putOut (outputOf r)).finish (errorOf r) := by
  cases r <;> rfl

/-- Everything an OUT-class command can do. -/
theorem runOut_eq (i : Instr) (rule : Ctx → Work × Except ErrCode (List Byte)) (s : State) :
    runOut i rule s =
      (((s.readInput i s.rangeLen).putWork (rule s.ctx).1).putOut (outputOf (rule s.ctx).2)).finish
        (errorOf (rule s.ctx).2) :=
  State.commitOut_eq _ _ _

/-- A failing NEW_CIPHER ends the instance (spec/41_key_schedule.md R187). -/
theorem State.raiseError_keyload (s : State) (e : ErrCode) :
    s.raiseError .keyload e = (s.putInst CipherInst.cleared).finish (some e) := rfl

/-- An illegal word changes STATUS only (spec/30_encoding.md R104). -/
theorem State.completeIllegal_eq (s : State) : s.completeIllegal = s.finish (some .illegalCommand) := rfl

/-! ## The two commands that are not OUT-class and not NOP -/

theorem execGfmul_closed {s : State} (h : s.inputChanged = false) (a b : Byte) :
    exec (.gfmul a b) s = .next ((s.putResult (gmul a b)).finish none) := by
  simp [exec, execGfmul, h, State.completeResult]

theorem execGfmul_open {s : State} (h : s.inputChanged = true) (a b : Byte) :
    exec (.gfmul a b) s = .next (((s.drawn 1).putResult (Config.freeByte s.draws)).finish none) := by
  simp [exec, execGfmul, h, State.completeResult]

/-- The instance NEW_CIPHER makes of 48 bytes (spec/41_key_schedule.md R186). -/
def instanceOf (m : List Byte) : CipherInst := ⟨keyOf m, ivOf m, keyExpansion (keyOf m), true⟩

theorem execNewCipher_legal (s : State) :
    exec (.newCipher 32 16) s =
      .next (((s.readInput (.newCipher 32 16) 48).putInst (instanceOf (s.inBytes 48))).finish none) := by
  simp only [exec, execNewCipher, instanceOf, State.completeCipher]
  rw [if_neg (by decide), if_neg (by decide)]

theorem keyBytes_iff (klen : Byte) : klen.toNat = Config.keyBytes ↔ klen = 32 :=
  ⟨fun h => BitVec.eq_of_toNat_eq h, fun h => h ▸ rfl⟩

theorem ivBytes_iff (ivlen : Byte) : ivlen.toNat = Config.ivBytes ↔ ivlen = 16 :=
  ⟨fun h => BitVec.eq_of_toNat_eq h, fun h => h ▸ rfl⟩

theorem execNewCipher_badKey (s : State) {klen : Byte} (h : klen ≠ 32) (ivlen : Byte) :
    exec (.newCipher klen ivlen) s = .next ((s.putInst CipherInst.cleared).finish (some .invalidKeyLength)) := by
  simp only [exec, execNewCipher, State.raiseError_keyload]
  rw [if_pos (mt (keyBytes_iff klen).1 h)]

theorem execNewCipher_badIv (s : State) {ivlen : Byte} (h : ivlen ≠ 16) :
    exec (.newCipher 32 ivlen) s = .next ((s.putInst CipherInst.cleared).finish (some .invalidIvLength)) := by
  simp only [exec, execNewCipher, State.raiseError_keyload]
  rw [if_neg (by decide), if_pos (mt (ivBytes_iff ivlen).1 h)]

/-- The rule of each OUT-class command. -/
def ruleOf : Instr → Ctx → Work × Except ErrCode (List Byte)
  | .encrypt => encryptRule
  | .decrypt => decryptRule
  | .encBlock => encBlockRule
  | .decBlock => decBlockRule
  | .cbcEnc => cbcEncRule
  | .cbcDec => cbcDecRule
  | .pad => padRule
  | .unpad => unpadRule
  | .b64Enc => b64EncRule
  | .b64Dec => b64DecRule
  | .nop | .newCipher _ _ | .gfmul _ _ => fun c => (c.work, .ok [])

/-- Every OUT-class command is its rule run by `runOut`. -/
theorem exec_out {i : Instr} (h : instrIsOut i = true) (s : State) : exec i s = .next (runOut i (ruleOf i) s) := by
  cases i <;> first | rfl | cases h

/-- OUT_BUF after an output fits: OUT_LEN is its length. -/
theorem outLen_toNat {out : List Byte} (h : out.length ≤ 65536) :
    (BitVec.ofNat 32 out.length).toNat = out.length := by
  simp only [BitVec.toNat_ofNat]; omega

/-- Everything a command can do: run its rule (OUT-class), complete (NOP), end the instance (NEW_CIPHER of a wrong
length), make an instance (NEW_CIPHER 32, 16), or write RESULT (GFMUL). -/
theorem exec_outcomes (i : Instr) (s : State) :
    (instrIsOut i = true ∧ exec i s = .next (runOut i (ruleOf i) s)) ∨
    (i = .nop ∧ exec i s = .next (s.finish none)) ∨
    (∃ e, instrIsKeyload i = true ∧ (e = .invalidKeyLength ∨ e = .invalidIvLength) ∧
      exec i s = .next ((s.putInst CipherInst.cleared).finish (some e))) ∨
    (i = .newCipher 32 16 ∧
      exec i s = .next (((s.readInput (.newCipher 32 16) 48).putInst (instanceOf (s.inBytes 48))).finish none)) ∨
    (∃ a b r k, i = .gfmul a b ∧ exec i s = .next (((s.drawn k).putResult r).finish none)) := by
  by_cases ho : instrIsOut i = true
  · exact .inl ⟨ho, exec_out ho s⟩
  · right
    cases i
    case nop => exact .inl ⟨rfl, rfl⟩
    case newCipher a b =>
      right
      by_cases ha : a = 32
      · subst ha
        by_cases hb : b = 16
        · subst hb; exact .inr (.inl ⟨rfl, execNewCipher_legal s⟩)
        · exact .inl ⟨_, rfl, .inr rfl, execNewCipher_badIv s hb⟩
      · exact .inl ⟨_, rfl, .inl rfl, execNewCipher_badKey s ha b⟩
    case gfmul a b =>
      right; right; right
      cases hc : s.inputChanged
      · exact ⟨a, b, _, 0, rfl, execGfmul_closed hc a b⟩
      · exact ⟨a, b, _, 1, rfl, execGfmul_open hc a b⟩
    all_goals exact absurd rfl ho

/-- An OUT-class command whose rule succeeds on the input `d` delivers the rule's output. -/
theorem delivers_of_rule {i : Instr} (hi : instrIsOut i = true) {s : State} {d out : List Byte} (ht : s.TakesInput d)
    (k : Work) (hr : ruleOf i ⟨s.cfg.bufBytes, s.inst, d.length, d, s.work⟩ = (k, .ok out))
    (hl : out.length < 2 ^ 32) : Delivers i s out := by
  refine ⟨_, exec_out hi s, ?_⟩
  rw [runOut_eq, State.ctx_of_takesInput ht, hr, State.readInput_of_takesInput ht]
  refine ⟨⟨rfl, rfl, rfl, rfl⟩, ⟨?_, fun a _ => ?_⟩, ⟨rfl, rfl, rfl, rfl, rfl, fun _ => rfl⟩, rfl, rfl, rfl, rfl⟩
  · simp only [State.finish_outLen, State.putOut_outLen, outputOf, BitVec.toNat_ofNat]; omega
  · simp only [State.finish_outBuf, State.putOut_outBuf, outputOf, Mem.read_zeroFilled]

/-- An OUT-class command whose rule fails fails with the rule's error. -/
theorem failsWith_of_rule {i : Instr} (hi : instrIsOut i = true) {s : State} {e : ErrCode}
    (hr : (ruleOf i s.ctx).2 = .error e) : FailsWith i s e := by
  refine ⟨_, exec_out hi s, ?_⟩
  rw [runOut_eq, hr]
  refine ⟨⟨rfl, rfl, rfl, rfl⟩, ⟨rfl, fun a _ => ?_⟩, ?_, ?_, ?_⟩
  · simp only [State.finish_outBuf, State.putOut_outBuf, outputOf, Mem.read_zeroFilled]
  · simp [State.SameSurroundings]
  · simp
  · simp

/-- The error a rule ends in is one its table lists (spec/60_exceptions.md R360). -/
theorem ruleOf_error_listed {i : Instr} {c : Ctx} {e : ErrCode} (hi : instrIsOut i = true)
    (h : (ruleOf i c).2 = .error e) : e ∈ listedErrors i := by
  cases i <;> try cases hi
  all_goals
    simp only [ruleOf, encBlockRule, decBlockRule, cbcEncRule, cbcDecRule, padRule, unpadRule, b64EncRule,
      b64DecRule, encryptRule, decryptRule] at h
    repeat' split at h
  all_goals first | (cases h; simp [listedErrors]) | cases h

end Sys2Proof.Machine
end

