-- ==== Sys2Proof/Laws/Encoding.lean ====
section
/-!
SUPPORT. Words assembled from bytes give the bytes back: the four fields of a command word (spec/30_encoding.md
R100), big-endian words (spec/00_scope.md R9) and the host port's little-endian words (spec/20_memory.md R75).
-/

namespace Sys2Proof

@[simp] theorem opc_commandWord (opc a b : Byte) : Word.opc (commandWord opc a b) = opc := by
  apply BitVec.eq_of_getElem_eq
  intro i hi
  interval_cases i <;> simp [Word.opc, commandWord]

@[simp] theorem opA_commandWord (opc a b : Byte) : Word.opA (commandWord opc a b) = a := by
  apply BitVec.eq_of_getElem_eq
  intro i hi
  interval_cases i <;> simp [Word.opA, commandWord]

@[simp] theorem opB_commandWord (opc a b : Byte) : Word.opB (commandWord opc a b) = b := by
  apply BitVec.eq_of_getElem_eq
  intro i hi
  interval_cases i <;> simp [Word.opB, commandWord]

@[simp] theorem rsv_commandWord (opc a b : Byte) : Word.rsv (commandWord opc a b) = 0 := by
  apply BitVec.eq_of_getElem_eq
  intro i hi
  interval_cases i <;> simp [Word.rsv, commandWord]

@[simp] theorem beByte_beWord_0 (b0 b1 b2 b3 : Byte) : beByte (beWord b0 b1 b2 b3) 0 = b0 := by
  apply BitVec.eq_of_getElem_eq
  intro i hi
  interval_cases i <;> simp [beByte, beWord]

@[simp] theorem beByte_beWord_1 (b0 b1 b2 b3 : Byte) : beByte (beWord b0 b1 b2 b3) 1 = b1 := by
  apply BitVec.eq_of_getElem_eq
  intro i hi
  interval_cases i <;> simp [beByte, beWord]

@[simp] theorem beByte_beWord_2 (b0 b1 b2 b3 : Byte) : beByte (beWord b0 b1 b2 b3) 2 = b2 := by
  apply BitVec.eq_of_getElem_eq
  intro i hi
  interval_cases i <;> simp [beByte, beWord]

@[simp] theorem beByte_beWord_3 (b0 b1 b2 b3 : Byte) : beByte (beWord b0 b1 b2 b3) 3 = b3 := by
  apply BitVec.eq_of_getElem_eq
  intro i hi
  interval_cases i <;> simp [beByte, beWord]

@[simp] theorem leByte_leWord_0 (b0 b1 b2 b3 : Byte) : leByte (leWord b0 b1 b2 b3) 0 = b0 := by
  apply BitVec.eq_of_getElem_eq
  intro i hi
  interval_cases i <;> simp [leByte, leWord]

@[simp] theorem leByte_leWord_1 (b0 b1 b2 b3 : Byte) : leByte (leWord b0 b1 b2 b3) 1 = b1 := by
  apply BitVec.eq_of_getElem_eq
  intro i hi
  interval_cases i <;> simp [leByte, leWord]

@[simp] theorem leByte_leWord_2 (b0 b1 b2 b3 : Byte) : leByte (leWord b0 b1 b2 b3) 2 = b2 := by
  apply BitVec.eq_of_getElem_eq
  intro i hi
  interval_cases i <;> simp [leByte, leWord]

@[simp] theorem leByte_leWord_3 (b0 b1 b2 b3 : Byte) : leByte (leWord b0 b1 b2 b3) 3 = b3 := by
  apply BitVec.eq_of_getElem_eq
  intro i hi
  interval_cases i <;> simp [leByte, leWord]

/-- A word is the little-endian word of its bytes (spec/20_memory.md R75). -/
theorem leWord_leByte (w : Word) : leWord (leByte w 0) (leByte w 1) (leByte w 2) (leByte w 3) = w := by
  apply BitVec.eq_of_getElem_eq
  intro i hi
  interval_cases i <;> simp [leByte, leWord]

/-- A word is the big-endian word of its bytes (spec/00_scope.md R9). -/
theorem beWord_beByte (w : Word) : beWord (beByte w 0) (beByte w 1) (beByte w 2) (beByte w 3) = w := by
  apply BitVec.eq_of_getElem_eq
  intro i hi
  interval_cases i <;> simp [beByte, beWord]

end Sys2Proof
end

