-- ==== Sys2Proof/Laws/HostPort.lean ====
section
/-!
SUPPORT. The host port: the windows as inequalities, what reads and writes of them come to, and what each host access
leaves alone.
-/

namespace Sys2Proof.Machine

theorem inWindow_iff {c : Config} {a : Nat} : inWindow c a = true ↔ 0x10000 ≤ a ∧ a < 0x10000 + c.bufBytes := by
  unfold inWindow offIn
  exact decide_eq_true_iff

theorem inWindow_eq_false {c : Config} {a : Nat} :
    inWindow c a = false ↔ a < 0x10000 ∨ 0x10000 + c.bufBytes ≤ a := by
  rw [← Bool.not_eq_true, inWindow_iff]; omega

theorem outWindow_iff {c : Config} {a : Nat} : outWindow c a = true ↔ 0x20000 ≤ a ∧ a < 0x20000 + c.bufBytes := by
  unfold outWindow offOut
  exact decide_eq_true_iff

theorem csrOffsets_contains {a : Nat} :
    csrOffsets.contains a = true ↔ a = 0 ∨ a = 4 ∨ a = 8 ∨ a = 12 ∨ a = 16 := by
  simp [csrOffsets, offCmd, offStatus, offInLen, offOutLen, offResult]

/-- A legal access is of 8 or of 32 bits (spec/20_memory.md R78). -/
theorem legalAccess_width {c : Config} {a n : Nat} (h : legalAccess c a n = true) : n = 1 ∨ n = 4 := by
  simp [legalAccess] at h; omega

/-! ## Reads and writes of the windows -/

/-- What a host write leaves in IN_BUF: its `n` bytes at index i, low byte first, and every other byte as it was
(spec/20_memory.md R77). -/
theorem writeBytes_read (m : Mem) (i : Nat) {n : Nat} (v : Word) (hn : n = 1 ∨ n = 4) (b : Nat) :
    (writeBytes m i n v).read b = if i ≤ b ∧ b < i + n then some (v.extractLsb' (8 * (b - i)) 8) else m.read b := by
  have self : ∀ (m : Mem) k, (m.write (i + k) (leByte v k)).read (i + k) = some (v.extractLsb' (8 * (i + k - i)) 8) :=
    fun m k => by rw [Mem.read_write_self, Nat.add_sub_cancel_left]; rfl
  by_cases hb : i ≤ b ∧ b < i + n
  · obtain ⟨k, rfl⟩ := Nat.exists_eq_add_of_le hb.1
    rw [if_pos hb]
    rcases hn with rfl | rfl
    · obtain rfl : k = 0 := by omega
      exact self m 0
    · rw [writeBytes, if_neg (by decide)]
      obtain rfl | rfl | rfl | rfl : k = 0 ∨ k = 1 ∨ k = 2 ∨ k = 3 := by omega
      · rw [Mem.read_write_other _ (by omega), Mem.read_write_other _ (by omega), Mem.read_write_other _ (by omega)]
        exact self m 0
      · rw [Mem.read_write_other _ (by omega), Mem.read_write_other _ (by omega)]; exact self _ 1
      · rw [Mem.read_write_other _ (by omega)]; exact self _ 2
      · exact self _ 3
  · rw [if_neg hb]
    rcases hn with rfl | rfl
    · exact Mem.read_write_other _ (by omega) _
    · rw [writeBytes, if_neg (by decide), Mem.read_write_other _ (by omega), Mem.read_write_other _ (by omega),
        Mem.read_write_other _ (by omega), Mem.read_write_other _ (by omega)]

/-- A read of the IN_BUF window is a read of IN_BUF (spec/20_memory.md R76). -/
theorem State.readValue_in (s : State) {i : Nat} (n : Nat) (h : i < s.cfg.bufBytes) :
    s.readValue (0x10000 + i) n = portValue s.inBuf i n s.draws := by
  have hw : inWindow s.cfg (0x10000 + i) = true := inWindow_iff.2 (by omega)
  have hc : csrOffsets.contains (0x10000 + i) = false := by rw [← Bool.not_eq_true, csrOffsets_contains]; omega
  simp only [State.readValue, State.portSource, hw, hc]
  simp [offIn]

/-- A read of the OUT_BUF window while the core is idle is a read of OUT_BUF (spec/20_memory.md R76). -/
theorem State.readValue_out {s : State} {i : Nat} (n : Nat) (hc : s.cfg.legal) (hf : s.fsm = .idle) :
    s.readValue (0x20000 + i) n = portValue s.outBuf i n s.draws := by
  have hle := hc.2.2
  have hw : inWindow s.cfg (0x20000 + i) = false := inWindow_eq_false.2 (by omega)
  have hcs : csrOffsets.contains (0x20000 + i) = false := by rw [← Bool.not_eq_true, csrOffsets_contains]; omega
  simp only [State.readValue, State.portSource, hw, hcs, State.busy, hf]
  simp [offOut]

/-! ## What a write to the input leaves alone (spec/70_reset_and_hazards.md R411) -/

@[simp] theorem State.inputHazard_cfg (s : State) : s.inputHazard.cfg = s.cfg := by
  unfold State.inputHazard; split <;> rfl
@[simp] theorem State.inputHazard_inst (s : State) : s.inputHazard.inst = s.inst := by
  unfold State.inputHazard; split <;> rfl
@[simp] theorem State.inputHazard_work (s : State) : s.inputHazard.work = s.work := by
  unfold State.inputHazard; split <;> rfl
@[simp] theorem State.inputHazard_fsm (s : State) : s.inputHazard.fsm = s.fsm := by
  unfold State.inputHazard; split <;> rfl
@[simp] theorem State.inputHazard_inBuf (s : State) : s.inputHazard.inBuf = s.inBuf := by
  unfold State.inputHazard; split <;> rfl
@[simp] theorem State.inputHazard_outBuf (s : State) : s.inputHazard.outBuf = s.outBuf := by
  unfold State.inputHazard; split <;> rfl
@[simp] theorem State.inputHazard_host (s : State) : s.inputHazard.host = s.host := by
  unfold State.inputHazard; split <;> rfl

/-- While the core is idle a write to the input is no hazard. -/
theorem State.inputHazard_idle {s : State} (h : s.fsm = .idle) : s.inputHazard = s := by
  simp [State.inputHazard, State.busy, h]

/-! ## What every host access leaves alone -/

theorem State.hostRead_inst (s : State) (x : Name) (a n : Nat) : (s.hostRead x a n).inst = s.inst := by
  unfold State.hostRead; split <;> rfl

theorem State.hostRead_prog (s : State) (x : Name) (a n : Nat) : (s.hostRead x a n).host.prog = s.host.prog := by
  unfold State.hostRead; split <;> rfl

theorem State.hostWrite_inst (s : State) (a n : Nat) (v : Word) : (s.hostWrite a n v).inst = s.inst := by
  simp only [State.hostWrite, State.writeCmd, State.writeInLen, State.writeIn]
  repeat' split
  all_goals first | rfl | exact State.inputHazard_inst s

theorem State.hostWrite_cfg (s : State) (a n : Nat) (v : Word) : (s.hostWrite a n v).cfg = s.cfg := by
  simp only [State.hostWrite, State.writeCmd, State.writeInLen, State.writeIn]
  repeat' split
  all_goals first | rfl | exact State.inputHazard_cfg s

end Sys2Proof.Machine
end

