-- ==== Sys2Proof/Laws/PerInstr.lean ====
section
/-!
SUPPORT. Statements made for each instruction, one lemma per constructor: the encoding of a command is a legal word
(spec/30_encoding.md R102, R103).
-/

namespace Sys2Proof.Laws.EncodeLegal

/-- The word that encodes the command is legal. -/
def Statement (i : Instr) : Prop := Word.legal (encode i) = true

theorem nop : Statement .nop := by unfold Statement; decide
theorem newCipher (klen ivlen : Byte) : Statement (.newCipher klen ivlen) := by
  simp [Statement, Word.legal, Word.rsvClear, Word.opcListed, Word.operandsFit, encode, opc_commandWord,
    rsv_commandWord, listedOpcodes, operandOpcodes]
theorem encrypt : Statement .encrypt := by unfold Statement; decide
theorem decrypt : Statement .decrypt := by unfold Statement; decide
theorem encBlock : Statement .encBlock := by unfold Statement; decide
theorem decBlock : Statement .decBlock := by unfold Statement; decide
theorem cbcEnc : Statement .cbcEnc := by unfold Statement; decide
theorem cbcDec : Statement .cbcDec := by unfold Statement; decide
theorem pad : Statement .pad := by unfold Statement; decide
theorem unpad : Statement .unpad := by unfold Statement; decide
theorem b64Enc : Statement .b64Enc := by unfold Statement; decide
theorem b64Dec : Statement .b64Dec := by unfold Statement; decide
theorem gfmul (a b : Byte) : Statement (.gfmul a b) := by
  simp [Statement, Word.legal, Word.rsvClear, Word.opcListed, Word.operandsFit, encode, opc_commandWord,
    rsv_commandWord, listedOpcodes, operandOpcodes]

end Sys2Proof.Laws.EncodeLegal
end

