-- ==== Sys2Proof/Machine/HostText.lean ====
section
/-!
DEFINITION. The text of a host program read into its lines (spec/30_encoding.md R130, R131). Text is a list of
characters; a line that fits no form of R130 and R131 makes the whole text unreadable (none). log 20.
-/

namespace Sys2Proof.Machine

/-! ## Words of a line -/

/-- A blank inside a line. -/
def isBlank (c : Char) : Bool := c == ' ' || c == '\t' || c == '\r'

/-- The text without blanks at its two ends. -/
def trimBlanks (cs : List Char) : List Char :=
  ((cs.dropWhile isBlank).reverse.dropWhile isBlank).reverse

/-- The text before a comment (R130: comments start with `;`). -/
def stripComment (cs : List Char) : List Char := cs.takeWhile fun c => c != ';'

/-- The first word of a text, and what follows it. -/
def firstWord (cs : List Char) : List Char × List Char :=
  (cs.takeWhile fun c => !isBlank c, trimBlanks (cs.dropWhile fun c => !isBlank c))

/-- The two trimmed texts around the first occurrence of a character. -/
def splitTrim (c : Char) (cs : List Char) : Option (List Char × List Char) :=
  (splitAtChar c cs).map fun p => (trimBlanks p.1, trimBlanks p.2)

/-- A letter or an underscore. -/
def isNameStart (c : Char) : Bool :=
  (97 ≤ c.toNat && c.toNat ≤ 122) || (65 ≤ c.toNat && c.toNat ≤ 90) || c == '_'

/-- A name (R130): a letter or an underscore, then letters, underscores and digits. -/
def parseName (cs : List Char) : Option Name :=
  match cs with
  | [] => none
  | c :: ds =>
    if isNameStart c && ds.all fun d => isNameStart d || (48 ≤ d.toNat && d.toNat ≤ 57) then some cs else none

/-! ## Offsets, values and byte strings -/

/-- The symbolic offsets of R130. -/
def symbolicOffsets : List (List Char × Nat) :=
  [("CMD".toList, offCmd), ("STATUS".toList, offStatus), ("IN_LEN".toList, offInLen),
   ("OUT_LEN".toList, offOutLen), ("RESULT".toList, offResult), ("IN".toList, offIn), ("OUT".toList, offOut)]

/-- A symbolic offset or a number (R130). -/
def parseBase (cs : List Char) : Option Nat :=
  match symbolicOffsets.lookup cs with
  | some a => some a
  | none => parseNat cs

/-- An offset (R130): a base, or a base and a number added to it (`IN+k` denotes 0x10000+k). -/
def parseOffset (cs : List Char) : Option Nat :=
  match splitTrim '+' cs with
  | none => parseBase cs
  | some (base, k) =>
    match parseBase base, parseNat k with
    | some a, some b => some (a + b)
    | _, _ => none

/-- A value (R130): a 32-bit number, or a name. -/
def parseValue (cs : List Char) : Option HostValue :=
  match parseNat cs with
  | some n => if n < 2 ^ 32 then some (.lit (BitVec.ofNat 32 n)) else none
  | none => (parseName cs).map .name

/-- The bytes of a hex byte string, two digits a byte, first byte first; blanks only group (R8, R131). -/
def parseHexBytes : List Char → Option (List Byte)
  | [] => some []
  | [_] => none
  | c :: d :: cs =>
    match parseDigits 16 [c, d], parseHexBytes cs with
    | some n, some bs => some (BitVec.ofNat 8 n :: bs)
    | _, _ => none

/-! ## Lines -/

/-- The opcode of a mnemonic (R102). -/
def opcodeOf (name : List Char) : Option Byte :=
  ((plainInstrs ++ [Instr.newCipher 0 0, Instr.gfmul 0 0]).find? fun i => mnemonicOf i == name).map
    fun i => (encode i).opc

/-- `<MNEMONIC> [A, B]`, A and B default to 0 (R131). -/
def parseCommand (cs : List Char) : Option (Byte × Byte × Byte) :=
  match opcodeOf (firstWord cs).1, (firstWord cs).2 with
  | none, _ => none
  | some opc, [] => some (opc, 0, 0)
  | some opc, ops =>
    match splitTrim ',' ops with
    | none => none
    | some (a, b) =>
      match parseByte a, parseByte b with
      | some x, some y => some (opc, x, y)
      | _, _ => none

/-- `<offset>, <value>` (R130). -/
def parseWrite (n : Nat) (cs : List Char) : Option (List HostLine) :=
  match splitTrim ',' cs with
  | none => none
  | some (o, v) =>
    match parseOffset o, parseValue v with
    | some off, some x => some [.wr off n x]
    | _, _ => none

/-- `<offset> -> <name>` (R130). -/
def parseRead (n : Nat) (cs : List Char) : Option (List HostLine) :=
  match splitTrim '-' cs with
  | some (o, '>' :: x) =>
    match parseOffset o, parseName (trimBlanks x) with
    | some off, some name => some [.rd name off n]
    | _, _ => none
  | _ => none

/-- `<offset>, <hex byte string>` of `load` (R131). -/
def parseLoad (cs : List Char) : Option (List HostLine) :=
  match splitTrim ',' cs with
  | none => none
  | some (o, h) =>
    match parseOffset o, parseHexBytes (h.filter fun c => !isBlank c) with
    | some off, some bs => some (load off bs)
    | _, _ => none

/-- A trimmed line without its comment: a host operation of R130 or a pseudo-instruction of R131, expanded. -/
def parseBody (cs : List Char) : Option (List HostLine) :=
  let op := (firstWord cs).1
  let rest := (firstWord cs).2
  if op = [] then some []
  else if op = "wr32".toList then parseWrite 4 rest
  else if op = "wr8".toList then parseWrite 1 rest
  else if op = "rd32".toList then parseRead 4 rest
  else if op = "rd8".toList then parseRead 1 rest
  else if op = "cmd".toList then (parseCommand rest).map fun c => [cmd c.1 c.2.1 c.2.2]
  else if op = "run".toList then (parseCommand rest).map fun c => run c.1 c.2.1 c.2.2
  else if op = "load".toList then parseLoad rest
  else if op = "wait".toList ∧ rest = [] then some [.wait]
  else none

/-- One line of text (R130). -/
def parseLine (cs : List Char) : Option (List HostLine) := parseBody (trimBlanks (stripComment cs))

/-- The lines of a text. -/
def splitLines : List Char → List (List Char)
  | [] => [[]]
  | c :: cs =>
    match splitLines cs with
    | [] => [[]]
    | l :: ls => if c = '\n' then [] :: l :: ls else (c :: l) :: ls

/-- The lines of text read one after the other. -/
def parseLines : List (List Char) → Option (List HostLine)
  | [] => some []
  | l :: ls =>
    match parseLine l, parseLines ls with
    | some a, some b => some (a ++ b)
    | _, _ => none

/-- A host program read from its text (R130, R131). -/
def parseProgram (text : List Char) : Option (List HostLine) := parseLines (splitLines text)

end Sys2Proof.Machine
end

