-- ==== Sys2Proof/Tests/Slice0.lean ====
section
/-!
SUPPORT. Tests. Expected values are the spec's: the encodings of spec/30_encoding.md R102 and the vectors of
spec/95_test_vectors.md, named in the docstrings. The `witness_` theorems show that the hypotheses of the
obligation they are named after can be met, clause by clause.
-/

namespace Sys2Proof.Tests

-- One test at a time: kernel evaluations that wait for one another take a thread each.
set_option Elab.async false

open Sys2Proof Sys2Proof.Machine

/-! ## Small states -/

/-- The bytes 0, 1, ..., n-1. -/
def counting (n : Nat) : List Byte := (List.range n).map (BitVec.ofNat 8)

/-- V-KS-2: the schedule of the key KA = 00 01 .. 1f, in three parts. -/
def ksWords0 : List Word :=
  [0x00010203, 0x04050607, 0x08090a0b, 0x0c0d0e0f, 0x10111213, 0x14151617, 0x18191a1b, 0x1c1d1e1f,
   0xa573c29f, 0xa176c498, 0xa97fce93, 0xa572c09c, 0x1651a8cd, 0x0244beda, 0x1a5da4c1, 0x0640bade,
   0xae87dff0, 0x0ff11b68, 0xa68ed5fb, 0x03fc1567]
def ksWords1 : List Word :=
  [0x6de1f148, 0x6fa54f92, 0x75f8eb53, 0x73b8518d, 0xc656827f, 0xc9a79917, 0x6f294cec, 0x6cd5598b,
   0x3de23a75, 0x524775e7, 0x27bf9eb4, 0x5407cf39, 0x0bdc905f, 0xc27b0948, 0xad5245a4, 0xc1871c2f,
   0x45f5a660, 0x17b2d387, 0x300d4d33, 0x640a820a]
def ksWords2 : List Word :=
  [0x7ccff71c, 0xbeb4fe54, 0x13e6bbf0, 0xd261a7df, 0xf01afafe, 0xe7a82979, 0xd7a5644a, 0xb3afe640,
   0x2541fe71, 0x9bf50025, 0x8813bbd5, 0x5a721c0a, 0x4e5a6699, 0xa9f24fe0, 0x7e572baa, 0xcdf8cdea,
   0x24fc79cc, 0xbf0979e9, 0x371ac23c, 0x6d68de36]

/-- The instance of KA and IVA, its schedule as V-KS-2 lists it. -/
def instKA : CipherInst :=
  ⟨keyOf (counting 32), Block.ofBytes (counting 16),
    Vector.ofFn fun i => (ksWords0 ++ (ksWords1 ++ ksWords2)).getD i.val 0, true⟩

/-- IN_BUF holding the bytes given, from index 0. -/
def memOf (d : List Byte) : Mem := ⟨none, (List.range d.length).map fun i => (i, d.getD i 0)⟩

/-- A state with an instance and an input, buffers of `buf` bytes. -/
def holding (buf : Nat) (c : CipherInst) (d : List Byte) : State :=
  { State.resetWith ⟨buf⟩ with inst := c, inBuf := memOf d, inLen := BitVec.ofNat 32 d.length }

/-- The same without an instance. -/
def plain (d : List Byte) : State := holding 64 CipherInst.cleared d

/-- The same under KA and IVA. -/
def keyed (d : List Byte) : State := holding 64 instKA d

/-- A state in which the word given runs, its input the bytes given, no instance. -/
def busyWith (w : Word) (d : List Byte) : State := { plain d with fsm := .exec w, cmdReg := w }

/-- What a step or command leaves in OUT[0..OUT_LEN), and STATUS. -/
def outputs (o : Host.Outcome State Fault Refusal) : Option (List Byte × Word) :=
  match o with
  | .next t => some ((List.range t.outLen.toNat).map fun i => (t.outBuf.read i).getD 0, t.status)
  | _ => none

/-- RESULT and STATUS after a step or command. -/
def resultOf (o : Host.Outcome State Fault Refusal) : Option (Word × Word) :=
  match o with
  | .next t => some (t.result, t.status)
  | _ => none

/-- STATUS after a step or command. -/
def statusAfter (o : Host.Outcome State Fault Refusal) : Option Word := (resultOf o).map fun p => p.2

/-- The model faults after a step or command. -/
def faultsAfter (o : Host.Outcome State Fault Refusal) : Option (List Fault) :=
  match o with
  | .next t => some t.faults
  | _ => none

/-- A text as bytes (R72). -/
def ascii (t : String) : List Byte := t.toList.map fun c => BitVec.ofNat 8 c.toNat

/-- V-TOP-2: the token of "Hello". -/
def helloToken : List Byte := ascii "W4J6s7T58iksK3TIpsmaPQ=="

/-! ## Well-formedness: each check refuses a word that breaks it alone (R103; V-ENC-2) -/

theorem test_rsv_refused :
    Word.rsvClear 0x01102001 = false ∧ Word.legal 0x01102001 = false ∧ Word.opcListed 0x01102001 = true ∧
      decode 0x01102001 = .error .nonzeroRsv := by decide

theorem test_opcode_refused :
    Word.opcListed 0x00000004 = false ∧ Word.legal 0x00000004 = false ∧ Word.rsvClear 0x00000004 = true ∧
      decode 0x00000004 = .error .reservedOpcode := by decide

theorem test_operand_refused :
    Word.operandsFit 0x00010002 = false ∧ Word.legal 0x00010002 = false ∧ Word.opcListed 0x00010002 = true ∧
      decode 0x00010002 = .error .nonzeroOperand := by decide

theorem test_reserved_space :
    [0x0000000f, 0x00000019, 0x00000020, 0x000000ff].map decode =
      List.replicate 4 (Except.error IllegalWord.reservedOpcode) ∧
    [0x01000000, 0x80835718].map decode = List.replicate 2 (Except.error IllegalWord.nonzeroRsv) ∧
    decode 0x00000100 = .error .nonzeroOperand := by decide

/-! ## Decoding: the words of R102 and V-ENC-1 -/

theorem test_decode_nop : decode 0x00000000 = .ok .nop := by decide
theorem test_decode_newCipher : decode 0x00102001 = .ok (.newCipher 32 16) := by decide
theorem test_decode_encrypt : decode 0x00000002 = .ok .encrypt := by decide
theorem test_decode_decrypt : decode 0x00000003 = .ok .decrypt := by decide
theorem test_decode_encBlock : decode 0x00000010 = .ok .encBlock := by decide
theorem test_decode_decBlock : decode 0x00000011 = .ok .decBlock := by decide
theorem test_decode_cbcEnc : decode 0x00000012 = .ok .cbcEnc := by decide
theorem test_decode_cbcDec : decode 0x00000013 = .ok .cbcDec := by decide
theorem test_decode_pad : decode 0x00000014 = .ok .pad := by decide
theorem test_decode_unpad : decode 0x00000015 = .ok .unpad := by decide
theorem test_decode_b64Enc : decode 0x00000016 = .ok .b64Enc := by decide
theorem test_decode_b64Dec : decode 0x00000017 = .ok .b64Dec := by decide
theorem test_decode_gfmul : decode 0x00835718 = .ok (.gfmul 0x57 0x83) := by decide

/-- The table's bits of a row, and the instruction's own word. -/
theorem test_table_word :
    decodeTableWord 32 0x00102001 = some (.newCipher 32 16) ∧ decodeTableWord 32 0x00000004 = none := by decide

/-! ## Text (R130 to R132; V-ENC-1, V-ENC-2, Programs 1 to 4) -/

theorem test_disassembly :
    disassemble 0x00835718 = "GFMUL 87, 131".toList ∧ disassemble 0x00102001 = "NEW_CIPHER 32, 16".toList ∧
      disassemble 0x80835718 = ".illegal 0x80835718".toList ∧ disassemble 0x00000012 = "CBC_ENC".toList := by
  decide +kernel

theorem test_host_lines :
    parseProgram "wr32 IN+4, 0x07060504 ; (W,32)\nwr8  IN+4, 0x6f\nrd32 OUT_LEN -> n".toList =
      some [wr32 0x10004 0x07060504, wr8 0x10004 0x6f, rd32 0x0000C ['n']] := by decide +kernel

theorem test_pseudo_lines :
    parseProgram "run NEW_CIPHER 32, 16\nload IN+0, 4142\nwr32 IN, x0".toList =
      some [wr32 0 0x00102001, .wait, wr8 0x10000 0x41, wr8 0x10001 0x42, .wr 0x10000 4 (.name ['x', '0'])] := by
  decide +kernel

theorem test_unreadable_line : parseProgram "wr16 CMD, 0".toList = none := by decide +kernel

/-! ## Arithmetic, tables and round operations (V-GF, V-RND-3, V-KS-2) -/

theorem test_gmul : gmul 0x57 0x83 = 0xc1 ∧ gmul 0xff 0xff = 0x13 ∧ gmul 0x80 0x02 = 0x1b ∧ ginv 0x53 = 0xca := by
  decide +kernel

theorem test_mix_column : mixCol ⟨0xdb, 0x13, 0x53, 0x45⟩ = ⟨0x8e, 0x4d, 0xa1, 0xbc⟩ ∧
    invMixCol ⟨0x4d, 0x7e, 0xbd, 0xf8⟩ = ⟨0x2d, 0x26, 0x31, 0x4c⟩ := by decide +kernel

/-- V-RND-1, V-RND-2. -/
theorem test_shift_rows :
    (shiftRows (Block.ofBytes (counting 16))).toBytes =
        [0x00, 0x05, 0x0a, 0x0f, 0x04, 0x09, 0x0e, 0x03, 0x08, 0x0d, 0x02, 0x07, 0x0c, 0x01, 0x06, 0x0b] ∧
      (invShiftRows (Block.ofBytes (counting 16))).toBytes =
        [0x00, 0x0d, 0x0a, 0x07, 0x04, 0x01, 0x0e, 0x0b, 0x08, 0x05, 0x02, 0x0f, 0x0c, 0x09, 0x06, 0x03] := by
  decide

/-! ## One command on a small state -/

theorem test_nop : statusAfter (exec .nop { keyed [] with err := true, done := true, errCode := 4 }) = some 0x0A := by
  decide +kernel

/-- V-KS-2. -/
theorem test_newCipher_instance :
    (match exec (.newCipher 32 16) (plain (counting 32 ++ counting 16)) with
      | .next t => t.inst == instKA && t.status == 0x0A
      | _ => false) = true := by decide +kernel

/-- V-KS-4: the wrong key length wins, and the instance is cleared. -/
theorem test_newCipher_fails :
    statusAfter (exec (.newCipher 0 0) (keyed [])) = some 0x16 ∧
      statusAfter (exec (.newCipher 32 0) (keyed [])) = some 0x26 := by decide +kernel

/-- V-GF-1. -/
theorem test_gfmul : resultOf (exec (.gfmul 0x57 0x83) (plain [])) = some (0xc1, 0x02) := by decide +kernel

/-- V-BLK-1 and V-BLK-2. -/
def fipsPlain : List Byte :=
  [0x00, 0x11, 0x22, 0x33, 0x44, 0x55, 0x66, 0x77, 0x88, 0x99, 0xaa, 0xbb, 0xcc, 0xdd, 0xee, 0xff]
def fipsCipher : List Byte :=
  [0x8e, 0xa2, 0xb7, 0xca, 0x51, 0x67, 0x45, 0xbf, 0xea, 0xfc, 0x49, 0x90, 0x4b, 0x49, 0x60, 0x89]

theorem test_encBlock : outputs (exec .encBlock (keyed fipsPlain)) = some (fipsCipher, 0x0A) := by decide +kernel
theorem test_decBlock : outputs (exec .decBlock (keyed fipsCipher)) = some (fipsPlain, 0x0A) := by decide +kernel

/-- V-BLK-5, V-BLK-6, V-BLK-7: the length errors, and no instance. -/
theorem test_encBlock_errors :
    statusAfter (exec .encBlock (keyed (counting 15))) = some 0x8E ∧
      statusAfter (exec .encBlock (plain (counting 16))) = some 0x56 := by decide +kernel
theorem test_decBlock_errors : outputs (exec .decBlock (keyed (counting 32))) = some ([], 0x3E) := by decide +kernel

/-- V-CBC-8 and V-CBC-5. -/
theorem test_cbcEnc :
    outputs (exec .cbcEnc (keyed (List.replicate 16 0))) =
      some ([0x5a, 0x6e, 0x04, 0x57, 0x08, 0xfb, 0x71, 0x96, 0xf0, 0x2e, 0x55, 0x3d, 0x02, 0xc3, 0xa6, 0x92],
        0x0A) := by decide +kernel
theorem test_cbcEnc_error : outputs (exec .cbcEnc (keyed (counting 17))) = some ([], 0x8E) := by decide +kernel

/-- V-CBC-7 and V-CBC-6. -/
theorem test_cbcDec :
    outputs (exec .cbcDec (keyed (List.replicate 16 0))) =
      some ([0x6d, 0x9e, 0x0a, 0xe8, 0x2e, 0x2b, 0x21, 0x7d, 0xbc, 0x80, 0x8e, 0xc4, 0xfd, 0xa6, 0x94, 0x06],
        0x0A) := by decide +kernel
theorem test_cbcDec_error : outputs (exec .cbcDec (keyed (counting 17))) = some ([], 0x3E) := by decide +kernel

/-- V-PAD-2 and V-PAD-9 (with BUF_BYTES = 64: an input that fills the buffer does not fit). -/
theorem test_pad : outputs (exec .pad (plain [0x41])) = some (0x41 :: List.replicate 15 0x0f, 0x02) := by
  decide +kernel
theorem test_pad_capacity : outputs (exec .pad (plain (counting 64))) = some ([], 0x76) := by decide +kernel

/-- V-UNPAD-4, V-UNPAD-8, V-UNPAD-10; V-UNPAD-1, V-UNPAD-6, V-UNPAD-7, V-UNPAD-12, V-UNPAD-13. -/
theorem test_unpad :
    outputs (exec .unpad (keyed (0x41 :: List.replicate 15 0x0f))) = some ([0x41], 0x0A) ∧
      outputs (exec .unpad (keyed [3, 3, 3])) = some ([], 0x0A) ∧
      outputs (exec .unpad (keyed [0x41, 1])) = some ([0x41], 0x0A) := by decide +kernel
theorem test_unpad_errors :
    [[], [0x41, 0x42, 0x43] ++ List.replicate 13 0x0e, [3, 3], List.replicate 17 0x11,
        List.replicate 15 0x41 ++ [0]].map (fun d => outputs (exec .unpad (keyed d))) =
      List.replicate 5 (some ([], 0x4E)) := by decide +kernel

/-- V-B64E-3, V-B64E-7, V-B64E-8, V-B64E-9. -/
theorem test_b64Enc :
    [ascii "fo", ascii "foobar", [0x00, 0xff, 0xfe], [0xfb, 0xff]].map (fun d => outputs (exec .b64Enc (plain d))) =
      [ascii "Zm8=", ascii "Zm9vYmFy", ascii "AP/+", ascii "+/8="].map (fun d => some (d, 0x02)) := by decide +kernel

/-- V-B64D-2, V-B64D-7, V-B64D-8, V-B64D-9, V-B64D-10, V-B64D-14, V-B64D-15. -/
theorem test_b64Dec :
    [ascii "Zg==", ascii "Z", ascii "Zm9", ascii "Zm9v!Zm9v", ascii "Zh==", ascii "+/+/", ascii "-_"].map
        (fun d => outputs (exec .b64Dec (plain d))) =
      [[0x66], [], [0x66, 0x6f], [0x66, 0x6f, 0x6f], [0x66], [0xfb, 0xff, 0xbf], []].map
        (fun d => some (d, 0x02)) := by decide +kernel
/-- V-B64D-17: IN_LEN is compared as an unsigned 32-bit value. -/
theorem test_b64Dec_capacity : outputs (exec .b64Dec { plain [] with inLen := 0xFFFFFFFF }) = some ([], 0x76) := by
  decide +kernel

/-- V-TOP-2, V-TOP-1. -/
theorem test_encrypt : outputs (exec .encrypt (keyed (ascii "Hello"))) = some (helloToken, 0x0A) := by decide +kernel
theorem test_encrypt_empty : outputs (exec .encrypt (keyed [])) = some ([], 0x0A) := by decide +kernel

/-- V-TOP-13 (V-TOP-3 with text after a line feed), V-TOP-9, V-TOP-10. -/
theorem test_decrypt :
    outputs (exec .decrypt (keyed (helloToken ++ ascii "\nxyz"))) = some (ascii "Hello", 0x0A) := by decide +kernel
theorem test_decrypt_errors :
    outputs (exec .decrypt (keyed (ascii "AAAA"))) = some ([], 0x3E) ∧
      outputs (exec .decrypt (keyed (ascii "===="))) = some ([], 0x4E) := by decide +kernel

/-! ## Steps, the host port and reset -/

/-- V-ENC-2: an illegal word. -/
theorem test_illegal_word : statusAfter (step (busyWith 0x00000020 [])) = some 0x66 := by decide +kernel

/-- The first instruction after reset: GFMUL 0x57, 0x83 (V-GF-1). -/
theorem test_first_step : resultOf (step (State.reset.withFetchWord 32 0x00835718)) = some (0xc1, 0x02) := by
  decide +kernel

/-- Nothing placed: the machine after reset is idle and stays so (log 6). -/
theorem test_reset_idles : step State.reset = .next State.reset := rfl

/-- V-MEM-1. -/
theorem test_byte_order :
    let s := State.reset.hostWrite 0x10000 4 0x6c6c6548
    (List.range 4).map s.inBuf.read = [some 0x48, some 0x65, some 0x6c, some 0x6c] ∧
      s.readValue 0x10001 1 = 0x65 ∧ s.readValue 0x10000 4 = 0x6c6c6548 := by decide

/-- V-MEM-2. -/
theorem test_bus_errors :
    [(0x00004, 1), (0x10002, 4), (0x00014, 4), (0x11000, 4)].map (fun p => legalAccess Config.vectors p.1 p.2) =
      List.replicate 4 false := by decide

/-- Program 5, both orders: a CMD write while BUSY is dropped; after the completion it is accepted. -/
theorem test_cmd_while_busy :
    (busyWith 0x00000000 []).hostWrite 0 4 0x00000016 = busyWith 0x00000000 [] ∧
      (plain []).hostWrite 0 4 0x00000016 = busyWith 0x00000016 [] := by decide

/-- Program 5': a write to the input while BUSY. -/
theorem test_input_hazard : ((busyWith 0x00000002 []).hostWrite 0x10000 1 0x4a).faults = [.hazardInputWrite 0] := by
  decide

/-- Program 3: the commands of an empty input raise no hazard; a command on unwritten bytes does. -/
theorem test_unwritten_input :
    faultsAfter (exec .encrypt State.reset) = some [] ∧
      faultsAfter (exec .unpad { State.reset with inLen := 1 }) = some [.hazardUnwrittenInput .unpad] := by
  constructor
  · decide
  · simp only [exec, execUnpad, runOut_eq]
    rfl

/-- A host line that copies what a read returned (Program 2). -/
theorem test_copy_by_name :
    ({ State.reset with
        host := ⟨[.wr 0x10000 4 (.name ['x'])], 3, [⟨2, ['x'], 0x364a3457, false⟩]⟩ } : State).hostTurn.inBuf.read 1 =
      some 0x34 := by decide

/-- A reset in the middle of a command abandons it (R401). -/
theorem test_reset_abandons : (busyWith 0x00000002 [0x41]).onReset = State.resetWith ⟨64⟩ := by decide

/-! ## Witnesses: the hypotheses of the obligations can be met -/

/-- A decodable word of each shape, and a word that does not decode. -/
theorem witness_decodable : (∃ i, decode 0x00835718 = .ok i) ∧ (∃ i, decode 0x00000017 = .ok i) ∧
    ¬∃ i, decode 0x000000ff = .ok i :=
  ⟨⟨_, rfl⟩, ⟨_, rfl⟩, fun ⟨i, h⟩ => by
    have : decode 0x000000ff = .error .reservedOpcode := by decide
    rw [this] at h; cases h⟩

theorem witness_MultiplierLaws : ∃ a : Byte, a ≠ 0 := ⟨0xFF, by decide⟩

theorem witness_RomContents : ∃ k, 1 ≤ k ∧ k < 10 := ⟨9, by decide⟩

theorem witness_RoundOperationFormulas : (0 < 15 ∧ 0 < 4 ∧ 0 < 4) ∧ 14 < 15 ∧ 3 < 4 ∧ 3 < 4 := by decide

/-- The first, the last and an inner recurrence index, of each of the three kinds. -/
theorem witness_KeyExpansionRecurrence :
    0 < 8 ∧ 7 < 8 ∧ (8 ≤ 8 ∧ 8 < 60 ∧ 8 % 8 = 0) ∧ (12 < 60 ∧ 12 % 8 = 4) ∧ (59 < 60 ∧ 59 % 8 = 3) := by decide

theorem witness_ChainingRoundTrip :
    ([] : List Byte).length % 16 = 0 ∧ (counting 32).length % 16 = 0 ∧ (counting 16).length % 16 = 0 := by decide

/-- A changed block: the first, an inner and the last of three. -/
theorem witness_TamperedBlockStaysLocal :
    let cs := [Block.zero, Block.zero, Block.zero]
    cs[0]? = some Block.zero ∧ cs[1]? = some Block.zero ∧ cs[2]? = some Block.zero ∧
      Block.ofBytes (counting 16) ≠ Block.zero := by decide

theorem witness_PaddingLaws : unpad [0x41, 2, 2] = some [0x41] ∧ unpad [1] = some [] := by decide

theorem witness_TokenShape : (b64Encode [0x66])[2]? = some 0x3D ∧ 0x3D ∈ b64Encode [0x66] := by decide

theorem witness_TextCodecLaws : inAlpha 0x3D = false ∧ inAlpha 0x0A = false ∧ inAlpha 0xFF = false := by decide

theorem witness_NewCipherResult :
    let s := plain (counting 32 ++ counting 16)
    (counting 32).length = 32 ∧ (counting 16).length = 16 ∧ s.inputChanged = false ∧
      s.HasBytes (counting 32 ++ counting 16) := by decide +kernel

/-- A wrong key length, a wrong IV length, both, at the edges of the right ones. -/
theorem witness_NewCipherFailure :
    ((31 : Byte) ≠ 32 ∨ (16 : Byte) ≠ 16) ∧ ((32 : Byte) ≠ 32 ∨ (17 : Byte) ≠ 16) ∧
      ((33 : Byte) ≠ 32 ∨ (15 : Byte) ≠ 16) := by decide

theorem witness_BlockCommandResults :
    (keyed fipsPlain).TakesInput fipsPlain ∧ (keyed fipsPlain).inst.cv = true ∧ fipsPlain.length = 16 := by
  decide +kernel

/-- The empty input, one block, and a full buffer. -/
theorem witness_ChainCommandResults :
    ∀ n ∈ [0, 16, 64], (keyed (counting n)).TakesInput (counting n) ∧ (keyed (counting n)).inst.cv = true ∧
      (counting n).length % 16 = 0 := by decide +kernel

/-- The empty input, and the longest one that fits. -/
theorem witness_PadResult :
    ∀ n ∈ [0, 63], (plain (counting n)).cfg.legal ∧ (plain (counting n)).TakesInput (counting n) ∧
      (counting n).length < (plain (counting n)).cfg.bufBytes := by decide +kernel

/-- Pads of 1 and of 16 bytes, and an input without a valid pad. -/
theorem witness_UnpadResult :
    (plain [1]).TakesInput [1] ∧ [1] = [] ++ List.replicate 1 (BitVec.ofNat 8 1) ∧
      (plain (List.replicate 16 16)).TakesInput (List.replicate 16 16) ∧
      List.replicate 16 16 = [] ++ List.replicate 16 (BitVec.ofNat 8 16) ∧ (plain []).TakesInput [] ∧
      ¬∃ (e : List Byte) (p : Nat), 1 ≤ p ∧ p ≤ 16 ∧ [] = e ++ List.replicate p (BitVec.ofNat 8 p) := by
  refine ⟨by decide, by decide, by decide, by decide, by decide, ?_⟩
  rintro ⟨e, p, h1, -, h⟩
  have := congrArg List.length h
  simp at this
  omega

/-- The longest input whose token fits, the empty one, and a full buffer for B64_DEC. -/
theorem witness_TextCommandResults :
    (∀ n ∈ [0, 48], (plain (counting n)).cfg.legal ∧ (plain (counting n)).TakesInput (counting n) ∧
      4 * (((counting n).length + 2) / 3) ≤ (plain (counting n)).cfg.bufBytes) ∧
      (plain (counting 64)).TakesInput (counting 64) := by decide +kernel

/-- The empty plaintext, one byte, and the longest plaintext whose token fits. -/
theorem witness_EncryptResult :
    ∀ n ∈ [0, 1, 47], (keyed (counting n)).cfg.legal ∧ (keyed (counting n)).TakesInput (counting n) ∧
      (keyed (counting n)).inst.cv = true ∧
      4 * ((16 * ((counting n).length / 16 + 1) + 2) / 3) ≤ (keyed (counting n)).cfg.bufBytes := by decide +kernel

/-- The empty token, and one token for each way DECRYPT can end. -/
theorem witness_DecryptResult :
    (keyed []).TakesInput [] ∧ (keyed (ascii "AAAA")).TakesInput (ascii "AAAA") ∧
      (b64Decode (ascii "AAAA")).length % 16 ≠ 0 ∧ (keyed (ascii "====")).TakesInput (ascii "====") ∧
      (b64Decode (ascii "====")).length % 16 = 0 ∧
      unpad (cbcDecrypt instKA.w instKA.iv (b64Decode (ascii "===="))) = none ∧
      (keyed helloToken).TakesInput helloToken ∧ (b64Decode helloToken).length % 16 = 0 ∧
      unpad (cbcDecrypt instKA.w instKA.iv (b64Decode helloToken)) = some (ascii "Hello") := by decide +kernel

/-- "Hello" and its token, and the empty plaintext and token. -/
theorem witness_EncryptThenDecrypt :
    (keyed (ascii "Hello")).TakesInput (ascii "Hello") ∧ (keyed helloToken).HasInput helloToken ∧
      (keyed helloToken).inst = (keyed (ascii "Hello")).inst ∧ (keyed helloToken).cfg = (keyed (ascii "Hello")).cfg ∧
      4 * ((16 * (5 / 16 + 1) + 2) / 3) ≤ (keyed (ascii "Hello")).cfg.bufBytes ∧ (keyed []).HasInput [] := by
  decide +kernel

/-- IN_LEN one past the buffer; no instance at a full buffer; a block too long, and a length off by one. -/
theorem witness_InputChecksInOrder :
    (keyed (counting 65)).inputChanged = false ∧ (keyed (counting 65)).cfg.bufBytes < (keyed (counting 65)).inLen.toNat ∧
      instrIsOut .b64Dec = true ∧ instrIsKey .encrypt = true ∧
      (plain (counting 64)).inLen.toNat ≤ (plain (counting 64)).cfg.bufBytes ∧ (plain (counting 64)).inst.cv = false ∧
      (keyed (counting 32)).inLen.toNat ≠ 16 ∧ (keyed (counting 17)).inLen.toNat % 16 ≠ 0 ∧
      (keyed (counting 17)).inst.cv = true ∧ (keyed (counting 17)).inLen.toNat ≤ 64 := by decide +kernel

/-- The shortest inputs whose output does not fit in 64 bytes. -/
theorem witness_OutputCapacity :
    (keyed (counting 48)).inLen.toNat ≤ 64 ∧ (keyed (counting 48)).inst.cv = true ∧
      64 < 4 * ((16 * ((keyed (counting 48)).inLen.toNat / 16 + 1) + 2) / 3) ∧
      64 < 16 * ((plain (counting 64)).inLen.toNat / 16 + 1) ∧
      64 < 4 * (((plain (counting 49)).inLen.toNat + 2) / 3) ∧ (plain (counting 49)).inputChanged = false ∧
      (plain (counting 64)).cfg.legal := by decide +kernel

/-- A command that answers a next state, one that fails of each kind, and one that succeeds. -/
theorem witness_command_outcomes :
    (∃ t, exec .nop (plain []) = .next t ∧ t.err = false) ∧ (∃ t, exec .unpad (plain []) = .next t ∧ t.err = true) ∧
      ∃ t, exec (.newCipher 0 0) (plain []) = .next t ∧ t.err = true :=
  ⟨⟨_, rfl, rfl⟩, ⟨_, rfl, rfl⟩, ⟨_, rfl, rfl⟩⟩

/-- A reset that ends an instance, and a NEW_CIPHER that ends one. -/
theorem witness_OnlyNewCipherChangesTheInstance :
    (∃ t, step { keyed [] with turns := [.reset] } = .next t ∧ t.inst.cv ≠ (keyed []).inst.cv) ∧
      ∃ t, step { keyed [] with fsm := .exec 0x00000001 } = .next t ∧ t.inst.cv ≠ (keyed []).inst.cv :=
  ⟨⟨_, rfl, by decide⟩, ⟨_, rfl, by decide⟩⟩

theorem witness_IllegalWordsComplete :
    (busyWith 0x000000ff []).fsm = .exec 0x000000ff ∧ ¬∃ i, decode 0x000000ff = .ok i :=
  ⟨rfl, witness_decodable.2.2⟩

/-- A written input, an unwritten one, and the empty one; the key material unwritten. -/
theorem witness_UnwrittenInputIsRecorded :
    (∃ a, a < min ((plain [0x41]).inLen + 1).toNat 64 ∧ (plain [0x41]).inBuf.read a = none) ∧
      (∀ a, a < min (plain [0x41]).inLen.toNat 64 → (plain [0x41]).inBuf.read a ≠ none) ∧
      (∀ a, a < min (plain []).inLen.toNat 64 → (plain []).inBuf.read a ≠ none) ∧
      (∃ a, a < 48 ∧ (plain (counting 47)).inBuf.read a = none) :=
  ⟨⟨1, by decide⟩, by decide, by decide, ⟨47, by decide +kernel⟩⟩

/-- IN_LEN, and the first and the last byte of the IN_BUF window, busy and idle. -/
theorem witness_InputWritesTakeEffect :
    (busyWith 0 []).fsm = .exec 0 ∧ (plain []).fsm = .idle ∧ legalAccess ⟨64⟩ 0x00008 4 = true ∧ legalAccess ⟨64⟩ 0x10000 4 = true ∧
      legalAccess ⟨64⟩ 0x1003F 1 = true ∧ 0x1003F < 0x10000 + (64 : Nat) := by decide

theorem witness_FaultsAreNeverCleared : ∃ t, step State.reset = .next t := ⟨_, rfl⟩

theorem witness_StepRunsTheAcceptedCommand :
    (busyWith 0x00000014 []).nextTurn = .core ∧ (busyWith 0x00000014 []).fsm = .exec 0x00000014 ∧
      decode 0x00000014 = .ok .pad ∧ { plain [] with turns := [.core] }.nextTurn = .core ∧
      (plain []).fsm = .idle ∧ { plain [] with turns := [.reset] }.nextTurn = .reset ∧
      { plain [] with turns := [.reset] }.turns = .reset :: [] ∧ (plain []).turns = [] := by decide

theorem witness_CommandWritesAcceptOrDrop :
    (plain []).fsm = .idle ∧ (busyWith 0 []).fsm = .exec 0 ∧ ¬∃ i, decode 0x000000ff = .ok i :=
  ⟨rfl, rfl, witness_decodable.2.2⟩

/-- A state at each kind of line: the core busy and idle at a `wait`, a write of a name, a read, and no line left. -/
theorem witness_HostTurnPerformsTheNextLine :
    let s := { plain [] with host := ⟨[.wait], 0, []⟩ }
    let b := { busyWith 0 [] with host := ⟨[.wait], 0, []⟩, turns := [.host] }
    let w := { plain [] with host := ⟨[.wr 0x00008 4 (.name ['n'])], 0, []⟩ }
    let r := { plain [] with host := ⟨[.rd ['n'] 0x0000C 4], 0, []⟩ }
    let e := { plain [] with host := ⟨[], 0, []⟩ }
    s.nextTurn = .host ∧ s.host.prog = .wait :: [] ∧ s.busy = false ∧ b.nextTurn = .host ∧
      b.host.prog = .wait :: [] ∧ b.busy = true ∧ w.nextTurn = .host ∧
      w.host.prog = .wr 0x00008 4 (.name ['n']) :: [] ∧ r.nextTurn = .host ∧
      r.host.prog = .rd ['n'] 0x0000C 4 :: [] ∧ e.nextTurn = .host ∧ e.host.prog = [] := by decide

/-- Responses of a name, read twice, with one of another name newer than both. -/
theorem witness_HostTurnPerformsTheNextLine_name :
    let s := { plain [] with
      host := ⟨[], 4, [⟨3, ['m'], 7, false⟩, ⟨2, ['n'], 8, false⟩, ⟨1, ['n'], 9, false⟩]⟩ }
    s.host.responses = [⟨3, ['m'], 7, false⟩] ++ ⟨2, ['n'], 8, false⟩ :: [⟨1, ['n'], 9, false⟩] ∧
      (∀ q ∈ ([⟨3, ['m'], 7, false⟩] : List Response), q.name ≠ ['n']) ∧ s.valueOf (.name ['n']) = 8 := by decide

/-- The edges of the map with 64-byte and with 65536-byte buffers. -/
theorem witness_LegalAccesses :
    Config.legal ⟨64⟩ ∧ Config.legal ⟨65536⟩ ∧ legalAccess ⟨64⟩ 0x00010 4 = true ∧
      legalAccess ⟨64⟩ 0x10040 1 = false ∧ legalAccess ⟨64⟩ 0x1003C 4 = true ∧ legalAccess ⟨65536⟩ 0x1FFFF 1 = true ∧
      legalAccess ⟨65536⟩ 0x2FFFC 4 = true ∧ legalAccess ⟨65536⟩ 0x30000 1 = false ∧
      legalAccess ⟨64⟩ 0x10001 4 = false ∧ legalAccess ⟨64⟩ 0x10000 2 = false := by decide

theorem witness_IllegalAccessesAreBusErrors :
    legalAccess State.reset.cfg 0x00004 1 = false ∧ legalAccess State.reset.cfg 0x40000 4 = false := by decide

theorem witness_ReadOnlyWritesAreIgnored :
    State.reset.cfg.legal ∧ legalAccess State.reset.cfg 0x00004 4 = true ∧
      legalAccess State.reset.cfg 0x20FFF 1 = true := by decide

/-- A busy state that meets the invariant, with a written first and last input byte. -/
theorem witness_HostReads_busy :
    (busyWith 0 (counting 64)).Inv ∧ (busyWith 0 (counting 64)).fsm = .exec 0 ∧
      legalAccess ⟨64⟩ 0x20000 4 = true ∧ (busyWith 0 (counting 64)).inBuf.read 63 = some 63 := by
  refine ⟨⟨by decide, by decide +kernel, by decide, ⟨?_, fun _ => rfl⟩, by decide, ⟨?_, ?_⟩⟩, rfl, by decide,
    by decide +kernel⟩
  · intro h; cases h
  · intro w h; cases h; rfl
  · intro h; cases h

/-- An idle state whose output ends in the last word of the buffer, and an illegal access. -/
theorem witness_HostReads_idle :
    let s := (plain []).putOut (counting 64)
    s.cfg.legal ∧ s.fsm = .idle ∧ 4 * 15 < s.cfg.bufBytes ∧ s.outBuf.read 60 = some 60 ∧ s.outBuf.read 61 = some 61 ∧
      s.outBuf.read 62 = some 62 ∧ s.outBuf.read 63 = some 63 ∧ legalAccess s.cfg 0x2003C 4 = true ∧
      legalAccess s.cfg 0x20040 4 = false := by decide +kernel

/-- The first and the last word of the buffer, the core idle and busy. -/
theorem witness_HostPortByteOrder :
    (plain []).cfg.legal ∧ (plain []).fsm = .idle ∧ (busyWith 0 []).cfg.legal ∧
      (busyWith 0 []).fsm = .exec 0 ∧ 4 * 0 < (plain []).cfg.bufBytes ∧ 4 * 15 < (plain []).cfg.bufBytes ∧
      0 < 4 ∧ 3 < 4 ∧ 4 * 15 + 3 < (plain []).cfg.bufBytes := by decide

theorem witness_LoadByBytesOrByWord :
    (plain []).cfg.legal ∧ (plain []).fsm = .idle ∧ 4 * 15 < (plain []).cfg.bufBytes := by decide

theorem witness_InvariantHoldsAtReset : Config.legal ⟨64⟩ ∧ Config.legal ⟨65536⟩ := by decide

theorem witness_ResetLeaves :
    (busyWith 2 [0x41]).onReset.fsm = .idle ∧
      { busyWith 2 [0x41] with turns := [.reset] }.nextTurn = .reset := by decide

/-- The busy state above meets the invariant and takes a step; so does a host's turn. -/
theorem witness_InvariantKept :
    (busyWith 0 (counting 64)).Inv ∧ (∃ t, step (busyWith 0 (counting 64)) = .next t) ∧
      ∃ t, step { busyWith 0 (counting 64) with turns := [.host] } = .next t :=
  ⟨witness_HostReads_busy.1, ⟨_, rfl⟩, ⟨_, rfl⟩⟩

/-- The last word of the buffer, for the 32-bit clause. -/
theorem witness_HostReads_word :
    4 * 15 < 64 ∧ (busyWith 0 (counting 64)).inBuf.read 60 = some 60 ∧
      (busyWith 0 (counting 64)).inBuf.read 61 = some 61 ∧ (busyWith 0 (counting 64)).inBuf.read 62 = some 62 := by
  decide +kernel

theorem witness_GfmulResult : (plain []).inputChanged = false := rfl

theorem witness_EveryCommandCompletes : (busyWith 0 []).fsm = .exec 0 := rfl

theorem witness_WorkingRegistersAreNeverObserved : ∃ t, step (busyWith 0 []) = .next t := ⟨_, rfl⟩

end Sys2Proof.Tests
end

section
/-!
The host port's legal accesses (spec/20_memory.md R78) and what its reads return, idle and while BUSY (R76, R84).
-/

namespace Sys2Proof.Machine

/-! ## Legal accesses -/

/-- The tests of `legalAccess` as conditions on the offset and the width. -/
theorem legalAccess_iff {c : Config} {a n : Nat} :
    legalAccess c a n = true ↔ a ≤ 0x3FFFF ∧
      ((n = 4 ∧ csrOffsets.contains a = true) ∨
        ((n = 1 ∨ n = 4 ∧ a % 4 = 0) ∧ (inWindow c a = true ∨ outWindow c a = true))) := by
  simp [legalAccess]

/-- Settles O49. With buffers of a legal size both windows lie below the 18-bit bound, which so refuses nothing. -/
theorem legalAccesses : Obligations.LegalAccesses := by
  intro c a n hc
  have hsize : c.bufBytes ≤ 65536 := hc.2.2
  rw [legalAccess_iff, csrOffsets_contains, inWindow_iff, outWindow_iff]
  constructor
  · rintro ⟨-, hcsr | ⟨hn | ⟨hn, hmod⟩, hwin⟩⟩
    · exact .inl hcsr
    · exact .inr ⟨.inl hn, hwin, by omega⟩
    · exact .inr ⟨.inr hn, hwin, fun _ => hmod⟩
  · rintro (⟨hn, ha⟩ | ⟨hn, hwin, hmod⟩)
    · exact ⟨by omega, .inl ⟨hn, ha⟩⟩
    · exact ⟨by omega, .inr ⟨hn.imp_right fun h => ⟨h, hmod h⟩, hwin⟩⟩

/-! ## What a read returns -/

/-- The four CSRs that read alike busy and idle (R76). -/
theorem State.readValue_csrs (s : State) :
    s.readValue 0x00000 4 = s.cmdReg ∧ s.readValue 0x00004 4 = s.status ∧ s.readValue 0x00008 4 = s.inLen ∧
      s.readValue 0x00010 4 = s.result := ⟨rfl, rfl, rfl, rfl⟩

/-- OUT_LEN reads 0 while BUSY = 1 (R84). -/
theorem State.readValue_outLen (s : State) : s.readValue 0x0000C 4 = if s.busy then 0 else s.outLen := rfl

/-- While BUSY = 1 a read at or above the OUT_BUF window returns 0 (R84). -/
theorem State.readValue_out_busy {s : State} {w : Word} {a : Nat} (n : Nat) (hc : s.cfg.legal)
    (hf : s.fsm = .exec w) (ha : 0x20000 ≤ a) : s.readValue a n = 0 := by
  have hsize := hc.2.2
  have hcsr : csrOffsets.contains a = false := by rw [← Bool.not_eq_true, csrOffsets_contains]; omega
  have hin : inWindow s.cfg a = false := inWindow_eq_false.2 (by omega)
  simp [State.readValue, State.portSource, -List.contains_eq_mem, hcsr, hin, State.busy_of_exec s w hf]

/-- A port whose reads are `portValue` of `m` returns the bytes of `m` that have a value. -/
theorem windowReads_of_portValue {s : State} {m : Mem} {base : Nat}
    (h : ∀ i n, i < s.cfg.bufBytes → s.readValue (base + i) n = portValue m i n s.draws) :
    Sys2Proof.Claims.WindowReads s m base := by
  constructor
  · intro i v hi hv
    simp [h i 1 hi, portValue, portByte, hv]
  · intro k b0 b1 b2 b3 hk h0 h1 h2 h3
    simp [h (4 * k) 4 hk, portValue, portByte, h0, h1, h2, h3, leWord]

/-- While BUSY = 1, STATUS shows BUSY and CV alone (R84). -/
theorem State.status_busy {s : State} {w : Word} (hs : s.StatusLegal) (hf : s.fsm = .exec w) :
    s.status = if s.inst.cv then 0x09 else 0x01 := by
  have hb := State.busy_of_exec s w hf
  obtain ⟨hdone, herr, hcode⟩ := hs.1 hb
  rw [State.status, hdone, herr, hcode, hb]
  cases s.inst.cv <;> rfl

/-! ## What a read does -/

/-- A legal read gives the host the value read, and changes nothing else but the counter of draws (R76). -/
theorem State.hostRead_legal {s : State} {a n : Nat} (x : Name) (h : legalAccess s.cfg a n = true) :
    s.hostRead x a n = (s.respond x (s.readValue a n) false).drawn (s.readDraws a n) := if_pos h

/-- An illegal read gives the host 0 with a BusError, which is recorded (R79). -/
theorem State.hostRead_illegal {s : State} {a n : Nat} (x : Name) (h : legalAccess s.cfg a n = false) :
    s.hostRead x a n = (s.respond x 0 true).record (.busError s.host.line) := if_neg (by simp [h])

/-- Settles O52: the CSRs, the two windows and the response each have their lemma; a busy core turns two of them
to 0 and leaves STATUS to the invariant. -/
theorem hostReads : Obligations.HostReads := by
  intro s hc
  refine ⟨fun x a n ha => ⟨_, State.hostRead_legal x ha⟩, fun x a n ha => ?_, s.readValue_csrs,
    windowReads_of_portValue fun i n hi => s.readValue_in n hi, fun hidle => ⟨?_, ?_⟩, fun w hbusy => ⟨?_, ?_, ?_⟩⟩
  · rw [State.hostRead_illegal x ha]; rfl
  · simp [s.readValue_outLen, State.busy_of_idle s hidle]
  · exact windowReads_of_portValue fun i n _ => State.readValue_out n hc hidle
  · simp [s.readValue_outLen, State.busy_of_exec s w hbusy]
  · exact fun a n ha _ => State.readValue_out_busy n hc hbusy ha
  · exact fun hinv => ⟨hinv.command.1 w hbusy, State.status_busy hinv.status hbusy⟩

end Sys2Proof.Machine
end

section
/-!
The words that decode (spec/30_encoding.md R103, R105): the decoder's chain of tests is `Word.legal`, and `Word.legal`
is the three conditions of R103.
-/

namespace Sys2Proof

/-! ## The decoder -/

/-- The opcode map gives a command to the opcodes listed in R102, whatever the operands: `isSome` taken through its
chain of tests leaves the disjunction of the tests, which is membership in the list. -/
theorem instrOf_isSome (opc a b : Byte) : (instrOf opc a b).isSome = listedOpcodes.contains opc := by
  simp [instrOf, listedOpcodes, apply_ite Option.isSome]

/-- A word decodes to the command its opcode stands for, when RSV is 0 and its operands fit (R105). -/
theorem decode_eq_ok_iff {w : Word} {i : Instr} :
    decode w = .ok i ↔
      w.rsvClear = true ∧ instrOf w.opc w.opA w.opB = some i ∧ w.operandsFit = true := by
  unfold decode
  cases w.rsvClear with
  | false => simp
  | true =>
    cases instrOf w.opc w.opA w.opB with
    | none => simp
    | some j => cases w.operandsFit <;> simp

/-- A word decodes to a command exactly when it is legal. -/
theorem decodable_iff_legal (w : Word) : (∃ i, decode w = .ok i) ↔ w.legal = true := by
  have hopc : (∃ i, instrOf w.opc w.opA w.opB = some i) ↔ w.opcListed = true := by
    rw [← Option.isSome_iff_exists, instrOf_isSome, Word.opcListed]
  simp only [decode_eq_ok_iff, exists_and_left, exists_and_right, hopc, Word.legal, Bool.and_eq_true, and_assoc]

/-! ## The conditions of R103 -/

/-- An opcode other than NEW_CIPHER's and GFMUL's has zero operands. -/
theorem operandsFit_iff (w : Word) :
    w.operandsFit = true ↔ (w.opc ≠ 0x01 → w.opc ≠ 0x18 → w.opA = 0 ∧ w.opB = 0) := by
  simp [Word.operandsFit, operandOpcodes, or_iff_not_imp_left]

/-- `legal(word)` as its three conditions. -/
theorem legal_iff (w : Word) :
    w.legal = true ↔
      w.rsv = 0 ∧ w.opc ∈ listedOpcodes ∧ (w.opc ≠ 0x01 → w.opc ≠ 0x18 → w.opA = 0 ∧ w.opB = 0) := by
  rw [Word.legal, Bool.and_eq_true, Bool.and_eq_true, and_assoc, operandsFit_iff, Word.rsvClear, beq_iff_eq,
    Word.opcListed, List.contains_iff_mem]

/-- Settles O3: the decodable words are the legal ones, and the fields of a word are the bit ranges of R100. -/
theorem decodableWordsAreTheLegalWords : Obligations.DecodableWordsAreTheLegalWords :=
  fun w => (decodable_iff_legal w).trans (legal_iff w)

end Sys2Proof
end

section
/-!
A host write to CMD (spec/30_encoding.md R118, R119), and what becomes of an accepted word that does not decode
(R104).
-/

namespace Sys2Proof.Machine

/-! ## The write -/

/-- A 32-bit write to CMD is a legal access whatever the size of the buffers (spec/20_memory.md R78). -/
theorem legalAccess_cmd (c : Config) : legalAccess c 0x00000 4 = true :=
  legalAccess_iff.2 ⟨by decide, .inl ⟨rfl, by decide⟩⟩

theorem State.hostWrite_cmd (s : State) (v : Word) : s.hostWrite 0x00000 4 v = s.writeCmd v :=
  if_pos (legalAccess_cmd s.cfg)

/-- An idle core accepts the word (R118). -/
theorem State.writeCmd_idle {s : State} (h : s.fsm = .idle) (v : Word) : s.writeCmd v = s.accept v := by
  rw [State.writeCmd, h]

/-- A busy core drops the word (R119). -/
theorem State.writeCmd_busy {s : State} {w : Word} (h : s.fsm = .exec w) (v : Word) : s.writeCmd v = s := by
  rw [State.writeCmd, h]

/-! ## After an acceptance -/

/-- An acceptance leaves BUSY and CV alone in STATUS (R118). -/
theorem State.accept_status (s : State) (v : Word) :
    (s.accept v).status = if s.inst.cv then 0x09 else 0x01 :=
  State.status_busy ⟨fun _ => ⟨rfl, rfl, rfl⟩, by simp⟩ (s.accept_fsm v)

/-- The core's turn completes a word that does not decode with IllegalCommand (R104). -/
theorem State.coreTurn_illegal {s : State} {w : Word} (hf : s.fsm = .exec w) (hw : ¬∃ i, decode w = .ok i) :
    s.coreTurn = .next (s.finish (some .illegalCommand)) := by
  rw [State.coreTurn, hf]
  cases h : decode w with
  | ok i => exact absurd ⟨i, h⟩ hw
  | error e => simp only [h, State.completeIllegal_eq]

/-- Settles O47: the acceptance of an idle core is `State.accept`, field by field; a busy core keeps its state. -/
theorem commandWritesAcceptOrDrop : Obligations.CommandWritesAcceptOrDrop := by
  intro s v
  rw [s.hostWrite_cmd v]
  refine ⟨fun hidle => ?_, fun w hbusy => State.writeCmd_busy hbusy v⟩
  have hillegal : (¬∃ i, decode v = .ok i) → ∃ u, (s.accept v).coreTurn = .next u ∧ u.Failed .illegalCommand :=
    fun hv => ⟨_, State.coreTurn_illegal (s.accept_fsm v) hv, rfl, rfl, rfl, rfl⟩
  exact ⟨_, State.writeCmd_idle hidle v, rfl, rfl, rfl, rfl, rfl, s.accept_status v, rfl, rfl, rfl, rfl, rfl, rfl,
    rfl, fun _ => rfl, ⟨rfl, fun _ => rfl⟩, ⟨rfl, rfl⟩, hillegal⟩

end Sys2Proof.Machine
end

section
/-!
The key schedule meets its recurrence (spec/41_key_schedule.md R180), as an invariant of the micro-steps of R183, and
the word helpers are a rotation and four table lookups (R181).
-/

namespace Sys2Proof.Machine

/-! ## The word helpers -/

theorem rotWord_beWord (t0 t1 t2 t3 : Byte) : rotWord (beWord t0 t1 t2 t3) = beWord t1 t2 t3 t0 := by
  simp [rotWord]

theorem subWord_beWord (t0 t1 t2 t3 : Byte) :
    subWord (beWord t0 t1 t2 t3) = beWord (sbox t0) (sbox t1) (sbox t2) (sbox t3) := by
  simp [subWord]

/-- Each of the 32 bits of `RotWord(t)` is the bit of `t` eight places below it, around the end (R181). -/
theorem rotWord_eq_shift (t : Word) : rotWord t = t <<< 8 ||| t >>> 24 := by
  apply BitVec.eq_of_getElem_eq
  intro i hi
  interval_cases i <;> simp [rotWord, beByte, beWord]

/-! ## The micro-steps -/

theorem kxLoad_length (k : List Byte) : (kxLoad k).length = 8 := rfl

/-- Micro-step KX0 loads the key's big-endian words (R180). -/
theorem getD_kxLoad (k : List Byte) {j : Nat} (hj : j < 8) :
    (kxLoad k).getD j 0 =
      beWord (k.getD (4 * j) 0) (k.getD (4 * j + 1) 0) (k.getD (4 * j + 2) 0) (k.getD (4 * j + 3) 0) := by
  interval_cases j <;> rfl

theorem kxStep_length (ws : List Word) (i : Nat) : (kxStep ws i).length = ws.length + 1 :=
  List.length_append

theorem getD_kxStep_of_lt {ws : List Word} {j : Nat} (i : Nat) (hj : j < ws.length) :
    (kxStep ws i).getD j 0 = ws.getD j 0 :=
  List.getD_append ws _ 0 j hj

theorem getD_kxStep_length (ws : List Word) (i : Nat) :
    (kxStep ws i).getD ws.length 0 = ws.getD (i - 8) 0 ^^^ kxTemp i (ws.getD (i - 1) 0) := by
  simp [kxStep]

/-- The micro-steps of R183 add a word each. -/
theorem foldl_kxStep_length (is : List Nat) (ws : List Word) :
    (is.foldl kxStep ws).length = ws.length + is.length := by
  induction is generalizing ws with
  | nil => rfl
  | cons i is ih => rw [List.foldl_cons, ih, kxStep_length, List.length_cons, Nat.add_assoc, Nat.add_comm 1]

/-! ## The recurrence, kept by the micro-steps -/

/-- `ws` begins the schedule of the key `k`: its first words are the key's, and each further word meets the
recurrence of R180. -/
structure BeginsSchedule (k : List Byte) (ws : List Word) : Prop where
  length : 8 ≤ ws.length
  load : ∀ j, j < 8 → ws.getD j 0 = (kxLoad k).getD j 0
  recurrence : ∀ i, 8 ≤ i → i < ws.length → ws.getD i 0 = ws.getD (i - 8) 0 ^^^ kxTemp i (ws.getD (i - 1) 0)

theorem kxLoad_beginsSchedule (k : List Byte) : BeginsSchedule k (kxLoad k) where
  length := (kxLoad_length k).ge
  load _ _ := rfl
  recurrence i hle hlt := absurd hlt (by rw [kxLoad_length]; omega)

/-- The micro-step KX(i) at the end of the first i words keeps them and adds w[i]. -/
theorem BeginsSchedule.addWord {k : List Byte} {ws : List Word} (h : BeginsSchedule k ws) :
    BeginsSchedule k (kxStep ws ws.length) := by
  have hlen := h.length
  refine ⟨by rw [kxStep_length]; omega, fun j hj => ?_, fun i hle hlt => ?_⟩
  · rw [getD_kxStep_of_lt _ (by omega), h.load j hj]
  · rw [kxStep_length] at hlt
    rw [getD_kxStep_of_lt (j := i - 8) _ (by omega), getD_kxStep_of_lt (j := i - 1) _ (by omega)]
    obtain hold | rfl : i < ws.length ∨ i = ws.length := by omega
    · rw [getD_kxStep_of_lt _ hold, h.recurrence i hle hold]
    · exact getD_kxStep_length ws _

/-- The micro-steps KX(i) of n consecutive indices add the next n words. -/
theorem BeginsSchedule.addWords {k : List Byte} {ws : List Word} (h : BeginsSchedule k ws) (n : Nat) :
    BeginsSchedule k ((List.range' ws.length n).foldl kxStep ws) := by
  induction n generalizing ws with
  | zero => exact h
  | succ n ih =>
    have hnext := ih h.addWord
    rwa [kxStep_length] at hnext

theorem kxWords_length (k : List Byte) : (kxWords k).length = 60 := foldl_kxStep_length _ _

theorem kxWords_beginsSchedule (k : List Byte) : BeginsSchedule k (kxWords k) :=
  (kxLoad_beginsSchedule k).addWords 52

/-! ## The schedule -/

/-- The words of KeyExpansion(K) are those of the micro-step sequence (R183). -/
theorem schedWord_keyExpansion (k : Key) {i : Nat} (hi : i < 60) :
    schedWord (keyExpansion k) i = (kxWords k.toList).getD i 0 := by
  rw [schedWord, List.getD_eq_getElem _ _ (by simpa using hi)]
  simp [keyExpansion]

/-- Settles O15: KX0 starts the schedule and every later micro-step keeps `BeginsSchedule`, whose fields, read off the
60 words, are the two clauses of R180. -/
theorem keyExpansionRecurrence : Obligations.KeyExpansionRecurrence := by
  refine ⟨fun k => ⟨fun j hj => ?_, fun i hle hlt => ?_⟩,
    fun t0 t1 t2 t3 => ⟨rotWord_beWord t0 t1 t2 t3, subWord_beWord t0 t1 t2 t3⟩, rotWord_eq_shift⟩
  · rw [schedWord_keyExpansion k (by omega), (kxWords_beginsSchedule _).load j hj, getD_kxLoad _ hj]
  · rw [schedWord_keyExpansion k hlt, schedWord_keyExpansion k (by omega), schedWord_keyExpansion k (by omega)]
    exact (kxWords_beginsSchedule _).recurrence i hle (by rwa [kxWords_length])

end Sys2Proof.Machine
end

section
/-!
The round state machines: the micro-steps they run one after the other are the round sequences of the spec
(42_block_transform.md R210 to R213).
-/

namespace Sys2Proof.Machine

/-! ## Runs of micro-steps -/

@[simp] theorem runRounds_cons (w : Schedule) (op : RoundOp) (ops : List RoundOp) (b : Block) :
    runRounds w (op :: ops) b = runRounds w ops (op.apply w b) := rfl

@[simp] theorem runRounds_append (w : Schedule) (ops ops' : List RoundOp) (b : Block) :
    runRounds w (ops ++ ops') b = runRounds w ops' (runRounds w ops b) := List.foldl_append

/-- Running the micro-steps of the rounds rs is a fold over the rounds. -/
theorem runRounds_flatMap (w : Schedule) (rs : List Nat) (steps : Nat → List RoundOp) (b : Block) :
    runRounds w (rs.flatMap steps) b = rs.foldl (fun s r => runRounds w (steps r) s) b :=
  List.foldl_flatMap

/-! ## The two round sequences -/

/-- R210 with R212: F0, then F(r,1..4) for r = 1 to 13, then F(14,1..3). -/
theorem cipher_eq_rounds (w : Schedule) (b : Block) :
    cipher w b =
      addRoundKey w 14 (shiftRows (subBytes
        ((List.range' 1 13).foldl (fun s r => addRoundKey w r (mixColumns (shiftRows (subBytes s))))
          (addRoundKey w 0 b)))) := by
  rw [cipher, forwardSteps, runRounds_cons, runRounds_append, runRounds_flatMap]
  rfl

/-- R211 with R213: I0, then I(r,1..4) for r = 13 down to 1, then I(0,1..3). -/
theorem invCipher_eq_rounds (w : Schedule) (b : Block) :
    invCipher w b =
      addRoundKey w 0 (invSubBytes (invShiftRows
        ((List.range' 1 13).reverse.foldl
          (fun s r => invMixColumns (addRoundKey w r (invSubBytes (invShiftRows s))))
          (addRoundKey w 14 b)))) := by
  rw [invCipher, inverseSteps, runRounds_cons, runRounds_append, runRounds_flatMap]
  rfl

/-- Settles O13: a run of micro-steps splits into its rounds, so each transform folds one round over 1 to 13, or over
13 to 1; the 56 micro-steps are 1 + 13 * 4 + 3. -/
theorem roundSequences : Obligations.RoundSequences :=
  ⟨rfl, rfl, fun w b => ⟨cipher_eq_rounds w b, invCipher_eq_rounds w b⟩⟩

end Sys2Proof.Machine
end

section
/-!
Decoding and encoding are inverse, and the opcode table, the reserved space and the mnemonic text agree with the
decoder (spec/30_encoding.md R102 to R105, R132).
-/

namespace Sys2Proof

/-! ## Command words and their fields -/

/-- Two words with the same four fields are equal (R100). -/
theorem Word.ext_fields {v w : Word} (hrsv : v.rsv = w.rsv) (hb : v.opB = w.opB) (ha : v.opA = w.opA)
    (hopc : v.opc = w.opc) : v = w :=
  calc
    v = beWord v.rsv v.opB v.opA v.opc := (beWord_beByte v).symm
    _ = beWord w.rsv w.opB w.opA w.opc := by rw [hrsv, hb, ha, hopc]
    _ = w := beWord_beByte w

/-- A word with RSV = 0 is the command word of its other fields (R100). -/
theorem commandWord_fields {w : Word} (h : w.rsv = 0) : commandWord w.opc w.opA w.opB = w :=
  Word.ext_fields (by simp [h]) (by simp) (by simp) (by simp)

/-! ## Decode of encode -/

/-- The encoding of every command is a legal word (R103). -/
theorem legal_encode (i : Instr) : (encode i).legal = true := by
  cases i with
  | nop => exact Laws.EncodeLegal.nop
  | newCipher klen ivlen => exact Laws.EncodeLegal.newCipher klen ivlen
  | encrypt => exact Laws.EncodeLegal.encrypt
  | decrypt => exact Laws.EncodeLegal.decrypt
  | encBlock => exact Laws.EncodeLegal.encBlock
  | decBlock => exact Laws.EncodeLegal.decBlock
  | cbcEnc => exact Laws.EncodeLegal.cbcEnc
  | cbcDec => exact Laws.EncodeLegal.cbcDec
  | pad => exact Laws.EncodeLegal.pad
  | unpad => exact Laws.EncodeLegal.unpad
  | b64Enc => exact Laws.EncodeLegal.b64Enc
  | b64Dec => exact Laws.EncodeLegal.b64Dec
  | gfmul a b => exact Laws.EncodeLegal.gfmul a b

/-- The opcode map takes the fields of a command's encoding back to the command (R102). -/
theorem instrOf_encode (i : Instr) : instrOf (encode i).opc (encode i).opA (encode i).opB = some i := by
  cases i <;> simp [encode, instrOf]

/-- Settles O1: the encoding is a legal word, so decoding it is the opcode map on its fields. -/
theorem commandsDecodeFromTheirWords : Obligations.CommandsDecodeFromTheirWords := by
  intro i
  have hlegal := legal_encode i
  simp only [Word.legal, Bool.and_eq_true] at hlegal
  obtain ⟨⟨hrsv, -⟩, hfit⟩ := hlegal
  exact decode_eq_ok_iff.2 ⟨hrsv, instrOf_encode i, hfit⟩

/-! ## Encode of decode -/

/-- The command of an opcode is encoded by that opcode and its operands, where a command without operands has them
0 (R102, R103). -/
theorem encode_of_instrOf {opc a b : Byte} {i : Instr} (h : instrOf opc a b = some i)
    (hfit : opc ≠ 0x01 → opc ≠ 0x18 → a = 0 ∧ b = 0) : encode i = commandWord opc a b := by
  have hopc : opc ∈ listedOpcodes := by
    rw [← List.contains_iff_mem, ← instrOf_isSome opc a b, h, Option.isSome_some]
  by_cases hops : opc = 0x01 ∨ opc = 0x18
  · rcases hops with rfl | rfl <;> cases h <;> rfl
  · rw [not_or] at hops
    obtain ⟨rfl, rfl⟩ := hfit hops.1 hops.2
    have hplain : ∀ x ∈ listedOpcodes, ¬x = 0x01 ∧ ¬x = 0x18 →
        (instrOf x 0 0).map encode = some (commandWord x 0 0) := by decide +kernel
    exact Option.some.inj (by rw [← hplain opc hopc hops, h, Option.map_some])

/-- A word that decodes is the encoding of its command. -/
theorem encode_of_decode {w : Word} {i : Instr} (h : decode w = .ok i) : encode i = w := by
  obtain ⟨hrsv, hi, hfit⟩ := decode_eq_ok_iff.1 h
  rw [encode_of_instrOf hi ((operandsFit_iff w).1 hfit), commandWord_fields (by simpa [Word.rsvClear] using hrsv)]

/-- Settles O2: a word that decodes is put together from its fields, as encoding does. -/
theorem decodedWordsAreEncodings : Obligations.DecodedWordsAreEncodings := fun _ _ => encode_of_decode

/-! ## The opcode table -/

/-- The row of spec/opcode_table.json for an opcode: its mask leaves out A and B when the command takes operands. -/
def rowOf (opc : Byte) : OpcodeRow :=
  ⟨if operandOpcodes.contains opc then 0xff0000ff else 0xffffffff, commandWord opc 0 0⟩

theorem opcodeTable_eq : opcodeTable = listedOpcodes.map rowOf := by decide

/-- Two words are equal exactly when their fields are. -/
theorem Word.eq_iff_fields (v w : Word) :
    v = w ↔ v.rsv = w.rsv ∧ v.opB = w.opB ∧ v.opA = w.opA ∧ v.opc = w.opc :=
  ⟨fun h => by simp [h], fun ⟨hrsv, hb, ha, hopc⟩ => Word.ext_fields hrsv hb ha hopc⟩

theorem Word.rsv_and (v w : Word) : Word.rsv (v &&& w) = v.rsv &&& w.rsv := BitVec.extractLsb'_and
theorem Word.opB_and (v w : Word) : Word.opB (v &&& w) = v.opB &&& w.opB := BitVec.extractLsb'_and
theorem Word.opA_and (v w : Word) : Word.opA (v &&& w) = v.opA &&& w.opA := BitVec.extractLsb'_and
theorem Word.opc_and (v w : Word) : Word.opc (v &&& w) = v.opc &&& w.opc := BitVec.extractLsb'_and

/-- The masks of the table keep RSV and OPC whole, and keep A and B whole or leave them out. -/
theorem rowOf_mask_fields (opc : Byte) :
    (rowOf opc).mask.rsv = BitVec.allOnes 8 ∧ (rowOf opc).mask.opc = BitVec.allOnes 8 ∧
      (rowOf opc).mask.opA = (if operandOpcodes.contains opc then 0 else BitVec.allOnes 8) ∧
      (rowOf opc).mask.opB = (if operandOpcodes.contains opc then 0 else BitVec.allOnes 8) := by
  have masks : ∀ takes : Bool, let mask : Word := if takes then 0xff0000ff else 0xffffffff
      mask.rsv = BitVec.allOnes 8 ∧ mask.opc = BitVec.allOnes 8 ∧
        mask.opA = (if takes then 0 else BitVec.allOnes 8) ∧
        mask.opB = (if takes then 0 else BitVec.allOnes 8) := by decide
  exact masks _

/-- A word belongs to the row of an opcode when it has RSV = 0, the opcode, and operands that fit (R105). -/
theorem rowOf_matches (w : Word) (opc : Byte) :
    w &&& (rowOf opc).mask = (rowOf opc).bits ↔ w.rsv = 0 ∧ w.opc = opc ∧ w.operandsFit = true := by
  obtain ⟨hrsv, hopc, ha, hb⟩ := rowOf_mask_fields opc
  have hbits : (rowOf opc).bits = commandWord opc 0 0 := rfl
  rw [Word.eq_iff_fields, Word.rsv_and, Word.opB_and, Word.opA_and, Word.opc_and, hrsv, hopc, ha, hb, hbits,
    rsv_commandWord, opB_commandWord, opA_commandWord, opc_commandWord, BitVec.and_allOnes, BitVec.and_allOnes]
  by_cases h : w.opc = opc
  · subst h
    cases hops : operandOpcodes.contains w.opc with
    | false => simp [Word.operandsFit, -List.contains_eq_mem, -BitVec.reduceAllOnes, hops, and_comm]
    | true => simp [Word.operandsFit, -List.contains_eq_mem, hops]
  · simp [h]

/-- Settles O4: the table has one row for each listed opcode, and a word of the row is a legal word. -/
theorem decodableWordsMatchTheOpcodeTable : Obligations.DecodableWordsMatchTheOpcodeTable := by
  intro w
  rw [decodable_iff_legal, opcodeTable_eq]
  simp only [List.mem_map, exists_exists_and_eq_and, rowOf_matches, Word.legal, Word.rsvClear, Word.opcListed,
    Bool.and_eq_true]
  constructor
  · rintro ⟨⟨hrsv, hopc⟩, hfit⟩
    exact ⟨w.opc, by simpa using hopc, by simpa using hrsv, rfl, hfit⟩
  · rintro ⟨_, hopc, hrsv, rfl, hfit⟩
    exact ⟨⟨by simpa using hrsv, by simpa using hopc⟩, hfit⟩

/-! ## The reserved space -/

theorem decode_eq_nonzeroRsv_iff (w : Word) : decode w = .error .nonzeroRsv ↔ w.rsv ≠ 0 := by
  unfold decode Word.rsvClear
  by_cases h : w.rsv = 0#8
  · cases instrOf w.opc w.opA w.opB with
    | none => simp [h]
    | some i => cases w.operandsFit <;> simp [h]
  · simp [h]

theorem decode_eq_reservedOpcode_iff (w : Word) :
    decode w = .error .reservedOpcode ↔ w.rsv = 0 ∧ listedOpcodes.contains w.opc = false := by
  have hnone : listedOpcodes.contains w.opc = false ↔ instrOf w.opc w.opA w.opB = none := by
    rw [← instrOf_isSome w.opc w.opA w.opB, Option.isSome_eq_false_iff, Option.isNone_iff_eq_none]
  rw [hnone]
  unfold decode Word.rsvClear
  by_cases h : w.rsv = 0#8
  · cases instrOf w.opc w.opA w.opB with
    | none => simp [h]
    | some i => cases w.operandsFit <;> simp [h]
  · simp [h]

/-- The opcodes that R102 does not list are those of the two ranges of R104. -/
theorem not_listed_iff (opc : Byte) :
    listedOpcodes.contains opc = false ↔ (4 ≤ opc.toNat ∧ opc.toNat ≤ 0x0F) ∨ 0x19 ≤ opc.toNat := by
  revert opc; decide +kernel

/-- Settles O5: the decoder looks at RSV first, then at the opcode. -/
theorem reservedOpcodesAreRefused : Obligations.ReservedOpcodesAreRefused := fun w =>
  ⟨decode_eq_nonzeroRsv_iff w, (decode_eq_reservedOpcode_iff w).trans (and_congr_right' (not_listed_iff w.opc))⟩

/-- Settles O6: each word evaluated. -/
theorem specWordsDecode : Obligations.SpecWordsDecode := by unfold Obligations.SpecWordsDecode; decide

end Sys2Proof

namespace Sys2Proof.Machine

/-! ## Mnemonic text -/

/-- A text is cut at the first occurrence of a character. -/
theorem splitAtChar_append {c : Char} {l : List Char} (h : c ∉ l) (r : List Char) :
    splitAtChar c (l ++ c :: r) = some (l, r) := by
  induction l with
  | nil => simp [splitAtChar]
  | cons d l ih =>
    rw [List.mem_cons, not_or] at h
    simp [splitAtChar, Ne.symm h.1, ih h.2]

theorem splitAtChar_eq_none {c : Char} {l : List Char} (h : c ∉ l) : splitAtChar c l = none := by
  induction l with
  | nil => rfl
  | cons d l ih =>
    rw [List.mem_cons, not_or] at h
    simp [splitAtChar, Ne.symm h.1, ih h.2]

theorem blank_not_mem_mnemonicOf (i : Instr) : ' ' ∉ mnemonicOf i := by
  cases i <;> simp [mnemonicOf]

theorem comma_not_mem_printByte (b : Byte) : ',' ∉ printByte b := by
  revert b; decide +kernel

/-- A byte printed in decimal reads back. -/
theorem parseByte_printByte (b : Byte) : parseByte (printByte b) = some b := by
  revert b; decide +kernel

/-- The text of a command with operands is read by its mnemonic and operands. -/
theorem parseInstr_operands {name : List Char} (h : ' ' ∉ name) (a b : Byte) :
    parseInstr (name ++ printOperands a b) = parseOperands name a b := by
  have hblank : splitAtChar ' ' (name ++ printOperands a b) =
      some (name, printByte a ++ ',' :: ' ' :: printByte b) := by
    simpa [printOperands] using splitAtChar_append h (printByte a ++ ',' :: ' ' :: printByte b)
  simp [parseInstr, hblank, splitAtChar_append (comma_not_mem_printByte a), parseByte_printByte]

/-- The text of a command without operands is its mnemonic, by which it is found. -/
theorem parseInstr_plain {i : Instr} (h : i ∈ plainInstrs) : parseInstr (printInstr i) = some i := by
  have hprint : printInstr i = mnemonicOf i := by revert i; decide
  rw [hprint, parseInstr, splitAtChar_eq_none (blank_not_mem_mnemonicOf i)]
  revert i; decide

/-- Parsing a command's text gives the command (R132). -/
theorem parseInstr_printInstr (i : Instr) : parseInstr (printInstr i) = some i := by
  cases i
  case newCipher klen ivlen =>
    exact (parseInstr_operands (blank_not_mem_mnemonicOf _) klen ivlen).trans (by simp [parseOperands, mnemonicOf])
  case gfmul a b =>
    exact (parseInstr_operands (blank_not_mem_mnemonicOf _) a b).trans (by simp [parseOperands, mnemonicOf])
  all_goals exact parseInstr_plain (by decide)

/-- Settles O7: a legal word prints as its command, which parses back and encodes to the word. -/
theorem printedWordsParseBack : Obligations.PrintedWordsParseBack := by
  intro w i h
  simp [disassemble, h, parseInstr_printInstr, encode_of_decode h]

end Sys2Proof.Machine
end

section
/-!
The field GF(2^8): the multiplier is additive in each argument, so its laws are checked on the powers of x
(spec/40_gf_tables.md R140 to R145), and the tables are what their algebraic definitions say (R150 to R154).
-/

namespace Sys2Proof.Machine

/-! ## XOR sums over the set bits of a byte -/

/-- The XOR of the values `f i` over the indices i of a list with `p i`, added to `v`. -/
def xorSum {n : Nat} (is : List Nat) (p : Nat → Bool) (f : Nat → BitVec n) (v : BitVec n) : BitVec n :=
  is.foldl (fun v i => if p i then v ^^^ f i else v) v

theorem xorSum_congr {n : Nat} {is : List Nat} {p : Nat → Bool} {f g : Nat → BitVec n} (h : ∀ i ∈ is, f i = g i)
    (v : BitVec n) : xorSum is p f v = xorSum is p g v :=
  List.foldl_ext _ _ _ fun v i hi => by simp [h i hi]

/-- A XOR sum is additive in the values summed. -/
theorem xorSum_xor_values {n : Nat} (is : List Nat) (p : Nat → Bool) (f g : Nat → BitVec n) (u v : BitVec n) :
    xorSum is p (fun i => f i ^^^ g i) (u ^^^ v) = xorSum is p f u ^^^ xorSum is p g v := by
  induction is generalizing u v with
  | nil => rfl
  | cons i is ih =>
    have hstep : (if p i then u ^^^ v ^^^ (f i ^^^ g i) else u ^^^ v) =
        (if p i then u ^^^ f i else u) ^^^ (if p i then v ^^^ g i else v) := by
      cases p i
      · rfl
      · simp only [if_true]; ac_rfl
    simpa only [xorSum, List.foldl_cons, hstep] using ih _ _

/-- A XOR sum is additive in the choice of the indices. -/
theorem xorSum_xor_choice {n : Nat} (is : List Nat) (p q : Nat → Bool) (f : Nat → BitVec n) (u v : BitVec n) :
    xorSum is (fun i => p i ^^ q i) f (u ^^^ v) = xorSum is p f u ^^^ xorSum is q f v := by
  induction is generalizing u v with
  | nil => rfl
  | cons i is ih =>
    have hstep : (if p i ^^ q i then u ^^^ v ^^^ f i else u ^^^ v) =
        (if p i then u ^^^ f i else u) ^^^ (if q i then v ^^^ f i else v) := by
      cases p i <;> cases q i
      · rfl
      · simp only [Bool.false_xor, if_true, Bool.false_eq_true, if_false]; ac_rfl
      · simp only [Bool.xor_false, if_true, Bool.false_eq_true, if_false]; ac_rfl
      · simp only [Bool.xor_self, if_true, Bool.false_eq_true, if_false]
        rw [show u ^^^ f i ^^^ (v ^^^ f i) = u ^^^ v ^^^ (f i ^^^ f i) by ac_rfl, BitVec.xor_self, BitVec.xor_zero]
    simpa only [xorSum, List.foldl_cons, hstep] using ih _ _

/-- An additive function of the sum is the sum of its values. -/
theorem map_xorSum {m n : Nat} {h : BitVec m → BitVec n} (hadd : ∀ u v, h (u ^^^ v) = h u ^^^ h v) (is : List Nat)
    (p : Nat → Bool) (f : Nat → BitVec m) (v : BitVec m) :
    h (xorSum is p f v) = xorSum is p (fun i => h (f i)) (h v) := by
  induction is generalizing v with
  | nil => rfl
  | cons i is ih => simp only [xorSum, List.foldl_cons] at ih ⊢; rw [ih, apply_ite h, hadd]

/-- An additive function sends 0 to 0. -/
theorem additive_zero {m n : Nat} {h : BitVec m → BitVec n} (hadd : ∀ u v, h (u ^^^ v) = h u ^^^ h v) : h 0 = 0 := by
  simpa using hadd 0 0

/-- The indices of the bits of a byte. -/
abbrev byteBits : List Nat := [0, 1, 2, 3, 4, 5, 6, 7]

/-- A byte is the XOR of the powers of x at its set bits (R140). -/
theorem byte_eq_xorSum (b : Byte) : b = xorSum byteBits b.getLsbD (fun i => 1 <<< i) 0 := by
  revert b; decide +kernel

/-- Two additive functions of a byte that agree on the powers of x are equal. -/
theorem additive_ext {n : Nat} {g h : Byte → BitVec n} (hg : ∀ u v, g (u ^^^ v) = g u ^^^ g v)
    (hh : ∀ u v, h (u ^^^ v) = h u ^^^ h v) (heq : ∀ i ∈ byteBits, g (1 <<< i) = h (1 <<< i)) (b : Byte) :
    g b = h b := by
  rw [byte_eq_xorSum b, map_xorSum hg, map_xorSum hh, additive_zero hg, additive_zero hh, xorSum_congr heq]

/-! ## The multiplier is additive in both arguments (R142) -/

theorem clmul_eq_xorSum (a b : Byte) : clmul a b = xorSum byteBits b.getLsbD (fun i => a.setWidth 16 <<< i) 0 := rfl

/-- The reduction steps at the bits of a list. -/
theorem foldl_reduce_xor (ks : List Nat) (u v : BitVec 16) :
    ks.foldl (fun v k => if v.getLsbD k then v ^^^ (0x11B#16 <<< (k - 8)) else v) (u ^^^ v) =
      ks.foldl (fun v k => if v.getLsbD k then v ^^^ (0x11B#16 <<< (k - 8)) else v) u ^^^
        ks.foldl (fun v k => if v.getLsbD k then v ^^^ (0x11B#16 <<< (k - 8)) else v) v := by
  induction ks generalizing u v with
  | nil => rfl
  | cons k ks ih =>
    have hstep := xorSum_xor_choice [k] u.getLsbD v.getLsbD (fun k => 0x11B#16 <<< (k - 8)) u v
    simp only [xorSum, List.foldl_cons, List.foldl_nil] at hstep
    rw [List.foldl_cons, BitVec.getLsbD_xor, hstep, ih]
    rfl

theorem reduce_xor (u v : BitVec 16) : reduce (u ^^^ v) = reduce u ^^^ reduce v := by
  rw [reduce, foldl_reduce_xor, BitVec.setWidth_xor]
  rfl

theorem gmul_xor_right (a b c : Byte) : gmul a (b ^^^ c) = gmul a b ^^^ gmul a c := by
  have hbits : (b ^^^ c).getLsbD = fun i => b.getLsbD i ^^ c.getLsbD i := funext fun _ => BitVec.getLsbD_xor
  have hsum := xorSum_xor_choice byteBits b.getLsbD c.getLsbD (fun i => a.setWidth 16 <<< i) 0 0
  rw [gmul, clmul_eq_xorSum, hbits, gmul, gmul, ← reduce_xor, clmul_eq_xorSum, clmul_eq_xorSum, ← hsum]
  rfl

theorem gmul_xor_left (a b c : Byte) : gmul (a ^^^ b) c = gmul a c ^^^ gmul b c := by
  have hsum := xorSum_xor_values byteBits c.getLsbD (fun i => a.setWidth 16 <<< i) (fun i => b.setWidth 16 <<< i) 0 0
  simp only [← BitVec.shiftLeft_xor_distrib, ← BitVec.setWidth_xor] at hsum
  rw [gmul, gmul, gmul, ← reduce_xor, clmul_eq_xorSum, clmul_eq_xorSum, clmul_eq_xorSum, ← hsum]
  rfl

/-! ## Powers of x (R143) -/

theorem xtime_xor (a b : Byte) : xtime (a ^^^ b) = xtime a ^^^ xtime b := by
  have hbit : ∀ p q : Bool, (if p ^^ q then 0x1B else 0x00 : Byte) =
      (if p then 0x1B else 0x00) ^^^ (if q then 0x1B else 0x00) := by decide
  rw [xtime, BitVec.shiftLeft_xor_distrib, BitVec.getLsbD_xor, hbit, xtime, xtime]
  ac_rfl

theorem xtime_iterate_xor (i : Nat) (a b : Byte) : xtime^[i] (a ^^^ b) = xtime^[i] a ^^^ xtime^[i] b := by
  induction i with
  | zero => rfl
  | succ i ih => simp only [Function.iterate_succ_apply', ih, xtime_xor]

/-- The product by x^i is `xtime` applied i times. -/
theorem gmul_pow (a : Byte) {i : Nat} (hi : i ∈ byteBits) : gmul a (1 <<< i) = xtime^[i] a := by
  have hbasis : ∀ i ∈ byteBits, ∀ j ∈ byteBits, gmul (1 <<< j) (1 <<< i) = xtime^[i] (1 <<< j) := by decide +kernel
  exact additive_ext (g := fun a => gmul a (1 <<< i)) (fun u v => gmul_xor_left u v _) (xtime_iterate_xor i)
    (hbasis i hi) a

/-- The product is the sum of a times x^i over the set bits i of b. -/
theorem gmul_eq_xorSum (a b : Byte) : gmul a b = xorSum byteBits b.getLsbD (fun i => xtime^[i] a) 0 := by
  conv_lhs => rw [byte_eq_xorSum b, map_xorSum (gmul_xor_right a), additive_zero (gmul_xor_right a)]
  exact xorSum_congr (fun i hi => gmul_pow a hi) 0

/-- The eight rounds add `xtime` applied i times to a at each set bit i of b. -/
theorem gmulShiftAdd_eq_xorSum (a b : Byte) :
    gmulShiftAdd a b = xorSum byteBits b.getLsbD (fun i => xtime^[i] a) 0 := by
  simp [gmulShiftAdd, shiftAddStep, xorSum, byteBits]

/-- Settles O8: both sides add a times x^i at each set bit i of b. -/
theorem multiplierIsShiftAndAdd : Obligations.MultiplierIsShiftAndAdd :=
  ⟨fun a b => (gmulShiftAdd_eq_xorSum a b).trans (gmul_eq_xorSum a b).symm, fun a => gmul_pow a (i := 1) (by decide)⟩

/-! ## The laws of the multiplier (R144) -/

theorem gmul_comm (a b : Byte) : gmul a b = gmul b a := by
  have hbasis : ∀ j ∈ byteBits, ∀ i ∈ byteBits, gmul (1 <<< i) (1 <<< j) = gmul (1 <<< j) (1 <<< i) := by
    decide +kernel
  refine additive_ext (g := gmul a) (h := fun b => gmul b a) (gmul_xor_right a) (fun u v => gmul_xor_left u v a)
    (fun j hj => ?_) b
  exact additive_ext (g := fun a => gmul a (1 <<< j)) (h := gmul (1 <<< j)) (fun u v => gmul_xor_left u v _)
    (gmul_xor_right _) (hbasis j hj) a

/-- A factor x of one argument is a factor of the product. -/
theorem gmul_xtime (a b : Byte) : gmul a (xtime b) = xtime (gmul a b) := by
  have hpow : ∀ i ∈ byteBits, gmul a (xtime (1 <<< i)) = xtime (gmul a (1 <<< i)) := by
    intro i hi
    have hbasis : ∀ i ∈ byteBits, ∀ j ∈ byteBits,
        gmul (1 <<< j) (xtime (1 <<< i)) = xtime (gmul (1 <<< j) (1 <<< i)) := by decide +kernel
    exact additive_ext (g := fun a => gmul a (xtime (1 <<< i))) (h := fun a => xtime (gmul a (1 <<< i)))
      (by simp [gmul_xor_left]) (by simp [gmul_xor_left, xtime_xor]) (hbasis i hi) a
  exact additive_ext (g := fun b => gmul a (xtime b)) (h := fun b => xtime (gmul a b))
    (by simp [gmul_xor_right, xtime_xor]) (by simp [gmul_xor_right, xtime_xor]) hpow b

theorem gmul_xtime_iterate (a b : Byte) (i : Nat) : gmul a (xtime^[i] b) = xtime^[i] (gmul a b) := by
  induction i with
  | zero => rfl
  | succ i ih => rw [Function.iterate_succ_apply', Function.iterate_succ_apply', gmul_xtime, ih]

theorem gmul_assoc (a b c : Byte) : gmul (gmul a b) c = gmul a (gmul b c) := by
  refine additive_ext (g := gmul (gmul a b)) (h := fun c => gmul a (gmul b c)) (gmul_xor_right _)
    (by simp [gmul_xor_right]) (fun i hi => ?_) c
  simp only [gmul_pow _ hi, gmul_xtime_iterate]

@[simp] theorem gmul_one (a : Byte) : gmul a 1#8 = a := gmul_pow a (i := 0) (by decide)

@[simp] theorem one_gmul (a : Byte) : gmul 1#8 a = a := by rw [gmul_comm, gmul_one]

@[simp] theorem gmul_zero (a : Byte) : gmul a 0#8 = 0#8 := additive_zero (gmul_xor_right a)

@[simp] theorem zero_gmul (a : Byte) : gmul 0#8 a = 0#8 := by rw [gmul_comm, gmul_zero]

/-! ## The inverse (R145)

The nonzero bytes are a group of 255 elements, so a^254 is the inverse of a. That every nonzero byte has an inverse is
seen on SBOX, from which R150's affine map is taken off. -/

/-- The inverse of the affine map of R150. -/
def unaffine (y : Byte) : Byte := rotl8 y 1 ^^^ rotl8 y 3 ^^^ rotl8 y 6 ^^^ 0x05

theorem affine_unaffine (y : Byte) : affine (unaffine y) = y := by revert y; decide +kernel

theorem gmul_unaffine_sbox {a : Byte} (h : a ≠ 0) : gmul a (unaffine (sbox a)) = 1 := by revert a; decide +kernel

/-- A product of nonzero bytes is nonzero. -/
theorem gmul_ne_zero {a b : Byte} (ha : a ≠ 0) (hb : b ≠ 0) : gmul a b ≠ 0 := by
  intro h
  apply ha
  calc
    a = gmul a (gmul b (unaffine (sbox b))) := by rw [gmul_unaffine_sbox hb]; exact (gmul_one a).symm
    _ = 0 := by rw [← gmul_assoc, h]; exact zero_gmul _

/-- The multiplicative group of GF(2^8). -/
abbrev nonzeroGroup : Group {a : Byte // a ≠ 0} where
  mul a b := ⟨gmul a b, gmul_ne_zero a.2 b.2⟩
  mul_assoc a b c := Subtype.ext (gmul_assoc a b c)
  one := ⟨1, by decide⟩
  one_mul a := Subtype.ext (one_gmul a)
  mul_one a := Subtype.ext (gmul_one a)
  inv a := ⟨unaffine (sbox a), fun h => by simpa [h] using gmul_unaffine_sbox a.2⟩
  inv_mul_cancel a := Subtype.ext ((gmul_comm _ _).trans (gmul_unaffine_sbox a.2))

/-- The nonzero bytes, counted from 1. -/
def nonzeroEquiv : {a : Byte // a ≠ 0} ≃ Fin 255 where
  toFun a := ⟨a.1.toNat - 1, by have := a.1.isLt; omega⟩
  invFun i := ⟨BitVec.ofNat 8 (i + 1), by have := i.isLt; bv_omega⟩
  left_inv a := by
    have := a.2
    apply Subtype.ext
    bv_omega
  right_inv i := by
    have := i.isLt
    apply Fin.ext
    simp only [BitVec.toNat_ofNat]
    omega

/-- x times its squares x^2, x^4, ..., x^128, multiplied in the order of `ginv`, is x^255. -/
theorem mul_squares_eq_pow {G : Type*} [Monoid G] (x : G) :
    let x2 := x * x
    let x4 := x2 * x2
    let x8 := x4 * x4
    let x16 := x8 * x8
    let x32 := x16 * x16
    let x64 := x32 * x32
    let x128 := x64 * x64
    x * (x2 * (x4 * (x8 * (x16 * (x32 * (x64 * x128)))))) = x ^ 255 := by
  simp only [← pow_two, ← pow_mul, ← pow_add, ← pow_succ']
  rfl

/-- The power a^254 is the inverse: the group has 255 elements. -/
theorem gmul_ginv {a : Byte} (h : a ≠ 0) : gmul a (ginv a) = 1 := by
  let group := nonzeroGroup
  have hpow : (⟨a, h⟩ : {a : Byte // a ≠ 0}) ^ 255 = 1 := by
    rw [← Nat.card_fin 255, ← Nat.card_congr nonzeroEquiv]
    exact pow_card_eq_one'
  exact congrArg Subtype.val ((mul_squares_eq_pow _).trans hpow)

/-- Settles O9: the laws hold on the powers of x and so everywhere; a second inverse b of a is b(a a^254) = a^254. -/
theorem multiplierLaws : Obligations.MultiplierLaws := by
  refine ⟨gmul_comm, gmul_assoc, gmul_xor_right, fun a => ⟨gmul_one a, gmul_zero a, zero_gmul a⟩,
    fun a ha => ⟨ginv a, gmul_ginv ha, fun b hb => ?_⟩⟩
  calc
    b = gmul b (gmul a (ginv a)) := by rw [gmul_ginv ha]; exact (gmul_one b).symm
    _ = gmul (gmul a b) (ginv a) := by rw [← gmul_assoc, gmul_comm b a]
    _ = ginv a := by rw [hb]; exact one_gmul _

/-! ## The tables -/

/-- INV_SBOX undoes SBOX (R152, R153). -/
@[simp] theorem invSbox_sbox (x : Byte) : invSbox (sbox x) = x := by revert x; decide +kernel

/-- SBOX undoes INV_SBOX (R152, R153). -/
@[simp] theorem sbox_invSbox (x : Byte) : sbox (invSbox x) = x := by revert x; decide +kernel

/-- SBOX as R150 defines it. -/
theorem sbox_eq_affine (x : Byte) : sbox x = affine (ginv x) := by
  by_cases h : x = 0
  · subst h; decide +kernel
  · obtain ⟨-, -, -, -, hinv⟩ := multiplierLaws
    rw [(hinv x h).unique (gmul_ginv h) (gmul_unaffine_sbox h), affine_unaffine]

/-- SBOX has no fixed and no opposite fixed point (R151). -/
theorem sbox_ne (x : Byte) : sbox x ≠ x ∧ sbox x ≠ x ^^^ 0xFF := by revert x; decide +kernel

theorem sbox_bijective : Function.Bijective sbox :=
  Function.bijective_iff_has_inverse.2 ⟨invSbox, invSbox_sbox, sbox_invSbox⟩

/-- The entries of RCON that the key schedule may read are powers of x (R154). -/
theorem rcon_succ {k : Nat} (h1 : 1 ≤ k) (h2 : k < 10) : rcon (k + 1) = xtime (rcon k) := by
  interval_cases k <;> rfl

/-- Settles O10: the tables are finite, and each fact about them is read off their 256 entries. -/
theorem romContents : Obligations.RomContents :=
  ⟨fun _ => gmul_ginv, by decide +kernel, sbox_eq_affine, fun x => ⟨invSbox_sbox x, sbox_invSbox x⟩, sbox_bijective,
    sbox_ne, rfl, rfl, fun _ => rcon_succ⟩

end Sys2Proof.Machine
end

section
/-!
The round operations: their formulas (spec/42_block_transform.md R201 to R207), their inverses (R208), and that the two
block transforms undo each other (R214).
-/

namespace Sys2Proof.Machine

/-! ## XOR of blocks -/

theorem Col.xor_cancel_right (x y : Col) : (x.xor y).xor y = x := by
  simp [Col.xor]

theorem Block.xor_cancel_right (x y : Block) : (x.xor y).xor y = x := by
  simp [Block.xor, Col.xor_cancel_right]

/-! ## Matrices of bytes

MixColumns and its inverse multiply a column by a matrix, so that they undo each other is a product of two matrices. A
matrix is held by its four rows, row r as column r of a block. -/

/-- A row of coefficients times a column. -/
def dot (m a : Col) : Byte := gmul m.r0 a.r0 ^^^ gmul m.r1 a.r1 ^^^ gmul m.r2 a.r2 ^^^ gmul m.r3 a.r3

/-- The matrix with the rows given, times a column. -/
def timesCol (m : Block) (a : Col) : Col := ⟨dot m.c0 a, dot m.c1 a, dot m.c2 a, dot m.c3 a⟩

/-- A row times a matrix. -/
def rowTimes (r : Col) (m : Block) : Col :=
  ⟨dot r ⟨m.c0.r0, m.c1.r0, m.c2.r0, m.c3.r0⟩, dot r ⟨m.c0.r1, m.c1.r1, m.c2.r1, m.c3.r1⟩,
    dot r ⟨m.c0.r2, m.c1.r2, m.c2.r2, m.c3.r2⟩, dot r ⟨m.c0.r3, m.c1.r3, m.c2.r3, m.c3.r3⟩⟩

/-- The product of two matrices. -/
def matMul (n m : Block) : Block := ⟨rowTimes n.c0 m, rowTimes n.c1 m, rowTimes n.c2 m, rowTimes n.c3 m⟩

/-- The unit matrix. -/
def unitRows : Block := ⟨⟨1, 0, 0, 0⟩, ⟨0, 1, 0, 0⟩, ⟨0, 0, 1, 0⟩, ⟨0, 0, 0, 1⟩⟩

/-- The matrix of R203. -/
def mixRows : Block := ⟨⟨2, 3, 1, 1⟩, ⟨1, 2, 3, 1⟩, ⟨1, 1, 2, 3⟩, ⟨3, 1, 1, 2⟩⟩

/-- The inverse mix matrix of R207. -/
def invMixRows : Block := ⟨⟨14, 11, 13, 9⟩, ⟨9, 14, 11, 13⟩, ⟨13, 9, 14, 11⟩, ⟨11, 13, 9, 14⟩⟩

theorem timesCol_unitRows (a : Col) : timesCol unitRows a = a := by
  simp [timesCol, unitRows, dot]

/-- A row times a matrix is associative with a column. -/
theorem dot_timesCol (r : Col) (m : Block) (a : Col) : dot r (timesCol m a) = dot (rowTimes r m) a := by
  simp only [dot, timesCol, rowTimes, gmul_xor_left, gmul_xor_right, gmul_assoc]
  ac_rfl

theorem timesCol_timesCol (n m : Block) (a : Col) : timesCol n (timesCol m a) = timesCol (matMul n m) a := by
  rw [timesCol, dot_timesCol, dot_timesCol, dot_timesCol, dot_timesCol]
  rfl

theorem mixCol_eq_timesCol (a : Col) : mixCol a = timesCol mixRows a := by
  simp [mixCol, timesCol, mixRows, dot]

theorem invMixCol_eq_timesCol (a : Col) : invMixCol a = timesCol invMixRows a := rfl

/-- The two matrices are inverse. -/
theorem matMul_mixRows : matMul invMixRows mixRows = unitRows ∧ matMul mixRows invMixRows = unitRows := by
  decide +kernel

theorem invMixCol_mixCol (a : Col) : invMixCol (mixCol a) = a := by
  rw [invMixCol_eq_timesCol, mixCol_eq_timesCol, timesCol_timesCol, matMul_mixRows.1, timesCol_unitRows]

theorem mixCol_invMixCol (a : Col) : mixCol (invMixCol a) = a := by
  rw [invMixCol_eq_timesCol, mixCol_eq_timesCol, timesCol_timesCol, matMul_mixRows.2, timesCol_unitRows]

/-! ## Inverse pairs (R208) -/

theorem invSubBytes_subBytes (s : Block) : invSubBytes (subBytes s) = s := by
  simp [invSubBytes, subBytes, Block.map, Col.map]

theorem subBytes_invSubBytes (s : Block) : subBytes (invSubBytes s) = s := by
  simp [invSubBytes, subBytes, Block.map, Col.map]

theorem invMixColumns_mixColumns (s : Block) : invMixColumns (mixColumns s) = s := by
  simp [invMixColumns, mixColumns, invMixCol_mixCol]

theorem mixColumns_invMixColumns (s : Block) : mixColumns (invMixColumns s) = s := by
  simp [invMixColumns, mixColumns, mixCol_invMixCol]

theorem addRoundKey_addRoundKey (w : Schedule) (r : Nat) (s : Block) : addRoundKey w r (addRoundKey w r s) = s :=
  Block.xor_cancel_right s _

/-- Settles O11: the substitutions and the matrices are inverse byte by byte and column by column; the row rotations
only move bytes. -/
theorem roundOperationsInvert : Obligations.RoundOperationsInvert := fun w s r =>
  ⟨invSubBytes_subBytes s, rfl, invMixColumns_mixColumns s, addRoundKey_addRoundKey w r s, rfl, rfl⟩

/-! ## The byte at a row and a column (R201 to R207) -/

section
variable (s : Block) {r c : Nat} (hr : r < 4) (hc : c < 4)
include hr hc

theorem map_at (f : Byte → Byte) : (s.map f).at r c = f (s.at r c) := by
  interval_cases r <;> interval_cases c <;> rfl

theorem shiftRows_at : (shiftRows s).at r c = s.at r ((c + r) % 4) := by
  interval_cases r <;> interval_cases c <;> rfl

theorem invShiftRows_at : (invShiftRows s).at r c = s.at r ((c + 4 - r) % 4) := by
  interval_cases r <;> interval_cases c <;> rfl

theorem addRoundKey_at (w : Schedule) (k : Nat) :
    (addRoundKey w k s).at r c = s.at r c ^^^ beByte (schedWord w (4 * k + c)) r := by
  interval_cases r <;> interval_cases c <;> rfl

end

/-- The column c of a block. -/
def columnOf (s : Block) (c : Nat) : Col := ⟨s.at 0 c, s.at 1 c, s.at 2 c, s.at 3 c⟩

/-- A row of a matrix times a column of a block is the row's product with the column. -/
theorem matrixTimes_eq_dot {m : List (List Byte)} (s : Block) {r : Nat} (c : Nat) {m0 m1 m2 m3 : Byte}
    (h : m.getD r [] = [m0, m1, m2, m3]) :
    Sys2Proof.Claims.matrixTimes m s r c = dot ⟨m0, m1, m2, m3⟩ (columnOf s c) := by
  unfold Sys2Proof.Claims.matrixTimes
  rw [h]
  simp [dot, columnOf]

theorem mixColumns_at (s : Block) {r c : Nat} (hr : r < 4) (hc : c < 4) :
    (mixColumns s).at r c = Sys2Proof.Claims.matrixTimes Sys2Proof.Claims.mixMatrix s r c := by
  simp only [mixColumns, mixCol_eq_timesCol]
  interval_cases r <;> rw [matrixTimes_eq_dot s c rfl] <;> interval_cases c <;> rfl

theorem invMixColumns_at (s : Block) {r c : Nat} (hr : r < 4) (hc : c < 4) :
    (invMixColumns s).at r c = Sys2Proof.Claims.matrixTimes Sys2Proof.Claims.invMixMatrix s r c := by
  simp only [invMixColumns, invMixCol_eq_timesCol]
  interval_cases r <;> rw [matrixTimes_eq_dot s c rfl] <;> interval_cases c <;> rfl

/-- Settles O12: each operation by its own formula. -/
theorem roundOperationFormulas : Obligations.RoundOperationFormulas := fun w s k _ _ _ hr hc =>
  ⟨map_at s hr hc sbox, map_at s hr hc invSbox, shiftRows_at s hr hc, invShiftRows_at s hr hc, mixColumns_at s hr hc,
    invMixColumns_at s hr hc, addRoundKey_at s hr hc w k⟩

/-! ## The block transforms (R214) -/

/-- The micro-step that undoes a micro-step. -/
def RoundOp.inverse : RoundOp → RoundOp
  | .sb => .isb
  | .sr => .isr
  | .mc => .imc
  | .ark r => .ark r
  | .isr => .sr
  | .isb => .sb
  | .imc => .mc

theorem RoundOp.apply_inverse (w : Schedule) (s : Block) (op : RoundOp) : op.inverse.apply w (op.apply w s) = s := by
  cases op with
  | sb => exact invSubBytes_subBytes s
  | sr => rfl
  | mc => exact invMixColumns_mixColumns s
  | ark r => exact addRoundKey_addRoundKey w r s
  | isr => rfl
  | isb => exact subBytes_invSubBytes s
  | imc => exact mixColumns_invMixColumns s

/-- The inverse micro-steps in the opposite order undo a run. -/
theorem runRounds_inverse (w : Schedule) (ops : List RoundOp) (b : Block) :
    runRounds w (ops.map RoundOp.inverse).reverse (runRounds w ops b) = b := by
  induction ops generalizing b with
  | nil => rfl
  | cons op ops ih =>
    rw [List.map_cons, List.reverse_cons, runRounds_append, runRounds_cons w op ops b, ih]
    exact op.apply_inverse w b

/-- The inverse round state machine is the forward one run backwards, each micro-step inverted (R212, R213). -/
theorem inverseSteps_eq : inverseSteps = (forwardSteps.map RoundOp.inverse).reverse := rfl

theorem forwardSteps_eq : forwardSteps = (inverseSteps.map RoundOp.inverse).reverse := rfl

theorem invCipher_cipher (w : Schedule) (b : Block) : invCipher w (cipher w b) = b := by
  rw [invCipher, inverseSteps_eq]
  exact runRounds_inverse w forwardSteps b

theorem cipher_invCipher (w : Schedule) (b : Block) : cipher w (invCipher w b) = b := by
  rw [cipher, forwardSteps_eq]
  exact runRounds_inverse w inverseSteps b

/-- Settles O14: each state machine is the other run backwards. -/
theorem blockTransformsAreInverse : Obligations.BlockTransformsAreInverse :=
  ⟨fun w b => ⟨invCipher_cipher w b, cipher_invCipher w b⟩, fun k =>
    Function.bijective_iff_has_inverse.2 ⟨invCipher (keyExpansion k), invCipher_cipher _, cipher_invCipher _⟩⟩

end Sys2Proof.Machine
end

section
/-!
The CBC chaining functions (spec/43_cbc.md R260 to R264): byte sequences as blocks, the round trip, what a tampered
block changes, and the micro-steps of a pass.
-/

namespace Sys2Proof.Machine

/-! ## Byte sequences as blocks -/

/-- Sixteen bytes are the bytes of the block they make. -/
theorem Block.toBytes_ofBytes {d : List Byte} (h : d.length = 16) : (Block.ofBytes d).toBytes = d := by
  apply List.ext_getElem (by simp [h])
  intro i h1 h2
  rw [Block.toBytes_length] at h1
  interval_cases i <;> simp [Block.ofBytes, Block.toBytes, Col.toBytes, Col.ofBytes, h]

theorem bytesOf_cons (b : Block) (bs : List Block) : bytesOf (b :: bs) = b.toBytes ++ bytesOf bs := rfl

theorem bytesOf_append (bs cs : List Block) : bytesOf (bs ++ cs) = bytesOf bs ++ bytesOf cs := List.flatMap_append

/-- The blocks of a sequence that starts with the bytes of blocks. -/
theorem blocksOf_bytesOf_append (bs : List Block) (d : List Byte) : blocksOf bs.length (bytesOf bs ++ d) = bs := by
  induction bs with
  | nil => rfl
  | cons b bs ih =>
    have htake : (b.toBytes ++ (bytesOf bs ++ d)).take 16 = b.toBytes := List.take_left' (Block.toBytes_length b)
    have hdrop : (b.toBytes ++ (bytesOf bs ++ d)).drop 16 = bytesOf bs ++ d := List.drop_left' (Block.toBytes_length b)
    rw [bytesOf_cons, List.append_assoc, List.length_cons, blocksOf, htake, hdrop, ih, Block.ofBytes_toBytes]

theorem wholeBlocks_bytesOf (bs : List Block) : wholeBlocks (bytesOf bs) = bs := by
  have hlen : (bytesOf bs).length / 16 = bs.length := by rw [bytesOf_length]; omega
  rw [wholeBlocks, hlen]
  simpa using blocksOf_bytesOf_append bs []

theorem bytesOf_blocksOf {m : Nat} {d : List Byte} (h : d.length = 16 * m) : bytesOf (blocksOf m d) = d := by
  induction m generalizing d with
  | zero => simpa [blocksOf, bytesOf] using (List.length_eq_zero_iff.1 h).symm
  | succ m ih =>
    rw [blocksOf, bytesOf_cons, ih (by rw [List.length_drop]; omega), Block.toBytes_ofBytes (by simp; omega),
      List.take_append_drop]

/-- A block-aligned sequence is the bytes of its blocks. -/
theorem bytesOf_wholeBlocks {d : List Byte} (h : d.length % 16 = 0) : bytesOf (wholeBlocks d) = d :=
  bytesOf_blocksOf (by omega)

theorem wholeBlocks_append {p q : List Byte} (hp : p.length % 16 = 0) (hq : q.length % 16 = 0) :
    wholeBlocks (p ++ q) = wholeBlocks p ++ wholeBlocks q := by
  conv_lhs => rw [← bytesOf_wholeBlocks hp, ← bytesOf_wholeBlocks hq, ← bytesOf_append, wholeBlocks_bytesOf]

/-! ## The round trip (R263) -/

theorem cbcDecBlocks_cbcEncBlocks (w : Schedule) (iv : Block) (ps : List Block) :
    cbcDecBlocks w iv (cbcEncBlocks w iv ps) = ps := by
  induction ps generalizing iv with
  | nil => rfl
  | cons p ps ih => rw [cbcEncBlocks, cbcDecBlocks, invCipher_cipher, Block.xor_cancel_right, ih]

/-- Encryption of blocks goes on from the last ciphertext block. -/
theorem cbcEncBlocks_append (w : Schedule) (iv : Block) (ps qs : List Block) :
    cbcEncBlocks w iv (ps ++ qs) =
      cbcEncBlocks w iv ps ++ cbcEncBlocks w ((cbcEncBlocks w iv ps).getLastD iv) qs := by
  induction ps generalizing iv with
  | nil => rfl
  | cons p ps ih => simp only [List.cons_append, cbcEncBlocks, ih, List.getLastD_cons]

/-- Decryption of a block-aligned sequence undoes its encryption. -/
theorem cbcDecrypt_cbcEncrypt (w : Schedule) (iv : Block) {p : List Byte} (hp : p.length % 16 = 0) :
    cbcDecrypt w iv (cbcEncrypt w iv p) = p := by
  rw [cbcDecrypt, cbcEncrypt, wholeBlocks_bytesOf, cbcDecBlocks_cbcEncBlocks, bytesOf_wholeBlocks hp]

/-- The ciphertext of block-aligned parts begins with the ciphertext of the first. -/
theorem cbcEncrypt_append (w : Schedule) (iv : Block) {p q : List Byte} (hp : p.length % 16 = 0)
    (hq : q.length % 16 = 0) : ∃ rest, cbcEncrypt w iv (p ++ q) = cbcEncrypt w iv p ++ rest := by
  rw [cbcEncrypt, wholeBlocks_append hp hq, cbcEncBlocks_append, bytesOf_append]
  exact ⟨_, rfl⟩

/-- Settles O16: on blocks the round trip is that of the cipher, and a block-aligned sequence is its
blocks. -/
theorem chainingRoundTrip : Obligations.ChainingRoundTrip := by
  intro w iv p q hp
  have hlen : 16 * (p.length / 16) = p.length := by omega
  refine ⟨cbcDecrypt_cbcEncrypt w iv hp, by rw [cbcEncrypt_length, hlen], by rw [cbcDecrypt_length, hlen], fun hq => ?_⟩
  obtain ⟨rest, hrest⟩ := cbcEncrypt_append w iv hp hq
  rw [hrest, List.take_left' (by rw [cbcEncrypt_length, hlen])]

/-! ## A tampered block (R263 item 4) -/

/-- Plaintext block i is worked out from ciphertext block i and the one before it, the IV standing before the first. -/
theorem cbcDecBlocks_eq_zipWith (w : Schedule) (iv : Block) (cs : List Block) :
    cbcDecBlocks w iv cs = List.zipWith (fun c chain => (invCipher w c).xor chain) cs (iv :: cs) := by
  induction cs generalizing iv with
  | nil => rfl
  | cons c cs ih => rw [cbcDecBlocks, ih, List.zipWith_cons_cons]

theorem cbcDecBlocks_getElem? (w : Schedule) (iv : Block) (cs : List Block) (i : Nat) :
    (cbcDecBlocks w iv cs)[i]? =
      (cs[i]?).bind fun c => ((iv :: cs)[i]?).map fun chain => (invCipher w c).xor chain := by
  rw [cbcDecBlocks_eq_zipWith, List.getElem?_zipWith]
  cases cs[i]? <;> cases (iv :: cs)[i]? <;> rfl

theorem invCipher_injective (w : Schedule) : Function.Injective (invCipher w) :=
  Function.LeftInverse.injective (cipher_invCipher w)

theorem Block.xor_left_injective (y : Block) : Function.Injective fun x : Block => x.xor y :=
  Function.LeftInverse.injective (g := fun x => x.xor y) fun x => Block.xor_cancel_right x y

/-- A difference of a chain block is the same difference of the plaintext block. -/
theorem Block.xor_changed (x c c' : Block) : x.xor c' = (x.xor c).xor (c.xor c') := by
  simp [Block.xor, Col.xor, BitVec.xor_assoc]

/-- Settles O17: ciphertext block j enters plaintext block j through the inverse cipher, which is injective, and
plaintext block j + 1 as its chain. -/
theorem tamperedBlockStaysLocal : Obligations.TamperedBlockStaysLocal := by
  intro w iv cs j c c' hj hne
  have hlt : j < cs.length := (List.getElem?_eq_some_iff.1 hj).1
  have hchain : iv :: cs.set j c' = (iv :: cs).set (j + 1) c' := rfl
  simp only [cbcDecBlocks_getElem?, hchain]
  refine ⟨?_, ?_, fun i hij hij1 => ?_⟩
  · obtain ⟨chain, hc⟩ : ∃ chain, (iv :: cs)[j]? = some chain := ⟨_, List.getElem?_eq_getElem (by simp; omega)⟩
    rw [List.getElem?_set_self hlt, List.getElem?_set_ne (by omega), hj, hc]
    intro h
    exact hne (invCipher_injective w (Block.xor_left_injective chain (Option.some.inj h)))
  · rw [List.getElem?_set_ne (by omega), List.getElem?_set_self (by simpa using hlt), List.getElem?_cons_succ, hj]
    cases cs[j + 1]? with
    | none => rfl
    | some d => exact congrArg some (Block.xor_changed _ c c')
  · rw [List.getElem?_set_ne (Ne.symm hij), List.getElem?_set_ne (by omega)]

/-! ## The micro-steps of a pass (R264) -/

theorem runPass_append (w : Schedule) (iv : Block) (xs ys : List PassStep) (k : Pass) :
    runPass w iv (xs ++ ys) k = runPass w iv ys (runPass w iv xs k) := List.foldl_append

/-- The round micro-steps work on S alone. -/
theorem runPass_rounds (w : Schedule) (iv : Block) (ops : List RoundOp) (k : Pass) :
    runPass w iv (ops.map .round) k = { k with blk := runRounds w ops k.blk } := by
  induction ops generalizing k with
  | nil => rfl
  | cons op ops ih => exact ih _

/-- The 58 micro-steps of one block of an encrypting pass. -/
theorem runPass_encBlock (w : Schedule) (iv p : Block) (k : Pass) :
    runPass w iv (.loadXor p :: (forwardSteps.map .round ++ [.store])) k =
      ⟨cipher w (p.xor k.chain), cipher w (p.xor k.chain), k.out ++ [cipher w (p.xor k.chain)]⟩ := by
  rw [← List.singleton_append, runPass_append, runPass_append, runPass_rounds]
  rfl

/-- The 58 micro-steps of one block of a decrypting pass. -/
theorem runPass_decBlock (w : Schedule) (iv c : Block) (k : Pass) :
    runPass w iv (.load c :: (inverseSteps.map .round ++ [.storeXor c])) k =
      ⟨invCipher w c, c, k.out ++ [(invCipher w c).xor k.chain]⟩ := by
  rw [← List.singleton_append, runPass_append, runPass_append, runPass_rounds]
  rfl

/-- The blocks of an encrypting pass, from any CHAIN. -/
theorem runPass_encBlocks (w : Schedule) (iv : Block) (ps : List Block) (k : Pass) :
    runPass w iv (ps.flatMap fun p => .loadXor p :: (forwardSteps.map .round ++ [.store])) k =
      ⟨(cbcEncBlocks w k.chain ps).getLastD k.blk, (cbcEncBlocks w k.chain ps).getLastD k.chain,
        k.out ++ cbcEncBlocks w k.chain ps⟩ := by
  induction ps generalizing k with
  | nil => simp [runPass, cbcEncBlocks]
  | cons p ps ih => rw [List.flatMap_cons, runPass_append, runPass_encBlock, ih]; simp only [cbcEncBlocks,
      List.getLastD_cons, List.append_assoc, List.singleton_append]

/-- The blocks of a decrypting pass, from any CHAIN. -/
theorem runPass_decBlocks (w : Schedule) (iv : Block) (cs : List Block) (k : Pass) :
    runPass w iv (cs.flatMap fun c => .load c :: (inverseSteps.map .round ++ [.storeXor c])) k =
      ⟨(cs.map (invCipher w)).getLastD k.blk, cs.getLastD k.chain, k.out ++ cbcDecBlocks w k.chain cs⟩ := by
  induction cs generalizing k with
  | nil => simp [runPass, cbcDecBlocks]
  | cons c cs ih => rw [List.flatMap_cons, runPass_append, runPass_decBlock, ih]; simp only [cbcDecBlocks,
      List.map_cons, List.getLastD_cons, List.append_assoc, List.singleton_append]

/-- A pass of 58 micro-steps a block, and the one that starts it. -/
theorem passSteps_length (steps : Block → List PassStep) (h : ∀ b, (steps b).length = 58) (bs : List Block)
    (first : PassStep) : (first :: bs.flatMap steps).length = 1 + 58 * bs.length := by
  simp [List.length_flatMap, h]
  omega

/-- Settles O18: the start micro-step sets CHAIN to IV, and the blocks go on from it one after the other. -/
theorem passMicroSteps : Obligations.PassMicroSteps :=
  ⟨rfl, fun w iv bs k => ⟨passSteps_length _ (fun _ => rfl) bs _, passSteps_length _ (fun _ => rfl) bs _,
    runPass_encBlocks w iv bs { k with chain := iv }, runPass_decBlocks w iv bs { k with chain := iv }⟩⟩

end Sys2Proof.Machine
end

section
/-!
The padding codec (spec/44_padding.md R280 to R282) and the text codec (spec/45_text_codec.md R300 to R313): each
decoder undoes its encoder, and the lengths and shapes of their results.
-/

namespace Sys2Proof.Machine

/-! ## Padding -/

/-- `Unpad` accepts exactly the sequences that end in p bytes of value p, with p in 1 to 16 (R281). -/
theorem unpad_eq_some_iff {d e : List Byte} :
    unpad d = some e ↔ ∃ p, 1 ≤ p ∧ p ≤ 16 ∧ d = e ++ List.replicate p (BitVec.ofNat 8 p) := by
  constructor
  · intro h
    unfold unpad at h
    split at h
    · cases h
    · rename_i p hlast
      split_ifs at h with hrange hlen hbytes
      cases h
      have htail : d.drop (d.length - p.toNat) = List.replicate p.toNat p := by
        refine List.eq_replicate_iff.2 ⟨by rw [List.length_drop]; omega, fun b hb => ?_⟩
        by_contra hne
        exact hbytes (List.any_eq_true.2 ⟨b, hb, by simpa using hne⟩)
      refine ⟨p.toNat, by omega, by omega, ?_⟩
      rw [BitVec.ofNat_toNat, BitVec.setWidth_eq, ← htail, List.take_append_drop]
  · rintro ⟨p, h1, h16, rfl⟩
    have hp : (BitVec.ofNat 8 p).toNat = p := by simp only [BitVec.toNat_ofNat]; omega
    have hlast : (e ++ List.replicate p (BitVec.ofNat 8 p)).getLast? = some (BitVec.ofNat 8 p) := by
      rw [List.getLast?_append, List.getLast?_replicate, if_neg (by omega)]
      rfl
    have hstart : e.length + p - p = e.length := by omega
    rw [unpad, hlast]
    simp only [hp, List.length_append, List.length_replicate, hstart, List.drop_left, List.take_left]
    rw [if_neg (by omega), if_neg (by omega), if_neg (by simp)]

/-- `Unpad` undoes `Pad` (R282). -/
theorem unpad_pad (d : List Byte) : unpad (pad d) = some d :=
  unpad_eq_some_iff.2 ⟨padLen d.length, by unfold padLen; omega, by unfold padLen; omega, rfl⟩

/-- What `Unpad` takes off is at least one byte (R282). -/
theorem unpad_length {d e : List Byte} (h : unpad d = some e) : e.length < d.length := by
  obtain ⟨p, h1, -, rfl⟩ := unpad_eq_some_iff.1 h
  rw [List.length_append, List.length_replicate]
  omega

/-- Settles O19: both laws are read off what `Unpad` accepts. -/
theorem paddingLaws : Obligations.PaddingLaws :=
  ⟨unpad_pad, fun _ _ h => ⟨unpad_eq_some_iff.1 h, by have := unpad_length h; omega⟩⟩

/-! ## The alphabet (R300) -/

theorem symVal_eq_some_iff (ch : Byte) (v : BitVec 6) :
    symVal ch = some v ↔
      (0x41 ≤ ch.toNat ∧ ch.toNat ≤ 0x5A ∧ v.toNat = ch.toNat - 0x41) ∨
      (0x61 ≤ ch.toNat ∧ ch.toNat ≤ 0x7A ∧ v.toNat = ch.toNat - 0x61 + 26) ∨
      (0x30 ≤ ch.toNat ∧ ch.toNat ≤ 0x39 ∧ v.toNat = ch.toNat - 0x30 + 52) ∨
      (ch = 0x2B ∧ v = 62) ∨ (ch = 0x2F ∧ v = 63) := by
  have hv := v.isLt
  unfold symVal
  split_ifs <;>
    simp only [Option.some.injEq, BitVec.toNat_eq, BitVec.ofNat_eq_ofNat, BitVec.toNat_ofNat, Nat.reducePow,
      Nat.reduceMod, false_iff] <;> omega

/-- `val` undoes `sym`. -/
@[simp] theorem symVal_sym (v : BitVec 6) : symVal (sym v) = some v := by revert v; decide +kernel

/-- Settles O20: the ranges of the alphabet are disjoint, so each branch of `val` is one clause. -/
theorem alphabetValues : Obligations.AlphabetValues := ⟨symVal_eq_some_iff, symVal_sym⟩

theorem inAlpha_sym (v : BitVec 6) : inAlpha (sym v) = true := by simp [inAlpha]

theorem symVal_eqSign : symVal eqSign = none := by decide

theorem sym_ne_eqSign (v : BitVec 6) : sym v ≠ eqSign := fun h => by
  have hval := symVal_sym v
  rw [h, symVal_eqSign] at hval
  cases hval

/-! ## Tokens (R301, R302) -/

theorem b64Encode_length (d : List Byte) : (b64Encode d).length = b64Len d.length := by
  fun_induction b64Encode d with
  | case1 => rfl
  | case2 => simp [b64Len]
  | case3 => simp [b64Len]
  | case4 b0 b1 b2 d v ih => simp only [List.length_cons, ih, b64Len]; omega

theorem mem_b64Encode {d : List Byte} {ch : Byte} (h : ch ∈ b64Encode d) : inAlpha ch = true ∨ ch = eqSign := by
  fun_induction b64Encode d with
  | case1 => cases h
  | case2 =>
    simp only [List.mem_cons, List.not_mem_nil, or_false] at h
    rcases h with rfl | rfl | rfl | rfl <;> simp [inAlpha_sym]
  | case3 =>
    simp only [List.mem_cons, List.not_mem_nil, or_false] at h
    rcases h with rfl | rfl | rfl | rfl <;> simp [inAlpha_sym]
  | case4 b0 b1 b2 d v ih =>
    simp only [List.mem_cons] at h
    rcases h with rfl | rfl | rfl | rfl | h
    · exact .inl (inAlpha_sym _)
    · exact .inl (inAlpha_sym _)
    · exact .inl (inAlpha_sym _)
    · exact .inl (inAlpha_sym _)
    · exact ih h

/-- A '=' stands in the last group of four. -/
theorem b64Encode_eqSign (d : List Byte) :
    ∀ i, (b64Encode d)[i]? = some eqSign → (b64Encode d).length ≤ i + 4 := by
  fun_induction b64Encode d with
  | case1 => exact fun i _ => Nat.zero_le _
  | case2 => exact fun i _ => Nat.le_add_left 4 i
  | case3 => exact fun i _ => Nat.le_add_left 4 i
  | case4 b0 b1 b2 d v ih =>
    intro i h
    match i, h with
    | 0, h => exact absurd (Option.some.inj h) (sym_ne_eqSign _)
    | 1, h => exact absurd (Option.some.inj h) (sym_ne_eqSign _)
    | 2, h => exact absurd (Option.some.inj h) (sym_ne_eqSign _)
    | 3, h => exact absurd (Option.some.inj h) (sym_ne_eqSign _)
    | i + 4, h =>
      have := ih i h
      simp only [List.length_cons]
      omega

/-- Settles O21: by the groups of three bytes, the last of which may be short. -/
theorem tokenShape : Obligations.TokenShape :=
  ⟨rfl, fun d => ⟨b64Encode_length d, fun _ => mem_b64Encode, b64Encode_eqSign d⟩⟩

/-! ## Groups of 24 bits (R301, R310) -/

/-- A number joined below a shifted one is added to it. -/
theorem mul_pow_or {b i : Nat} (h : b < 2 ^ i) (a : Nat) : a * 2 ^ i ||| b = a * 2 ^ i + b := by
  rw [Nat.mul_comm, ← Nat.two_pow_add_eq_or_of_lt h]

theorem group24_toNat (b0 b1 b2 : Byte) :
    (group24 b0 b1 b2).toNat = b0.toNat * 2 ^ 16 + b1.toNat * 2 ^ 8 + b2.toNat := by
  have h0 := b0.isLt
  have h1 := b1.isLt
  have h2 := b2.isLt
  rw [group24, BitVec.or_assoc]
  simp only [BitVec.toNat_or, BitVec.toNat_shiftLeft, BitVec.toNat_setWidth, Nat.shiftLeft_eq]
  simp (disch := omega) only [Nat.mod_eq_of_lt]
  rw [mul_pow_or h2, mul_pow_or (by omega), Nat.add_assoc]

theorem join24_toNat (x0 x1 x2 x3 : BitVec 6) :
    (join24 x0 x1 x2 x3).toNat = x0.toNat * 2 ^ 18 + x1.toNat * 2 ^ 12 + x2.toNat * 2 ^ 6 + x3.toNat := by
  have h0 := x0.isLt
  have h1 := x1.isLt
  have h2 := x2.isLt
  have h3 := x3.isLt
  rw [join24, BitVec.or_assoc, BitVec.or_assoc]
  simp only [BitVec.toNat_or, BitVec.toNat_shiftLeft, BitVec.toNat_setWidth, Nat.shiftLeft_eq]
  simp (disch := omega) only [Nat.mod_eq_of_lt]
  rw [mul_pow_or h3, mul_pow_or (i := 12) (by omega), mul_pow_or (by omega), Nat.add_assoc,
    Nat.add_assoc]

theorem sextet_toNat (v : BitVec 24) (k : Nat) : (sextet v k).toNat = v.toNat / 2 ^ (18 - 6 * k) % 2 ^ 6 := by
  rw [sextet, BitVec.extractLsb'_toNat, Nat.shiftRight_eq_div_pow]

theorem octet_toNat (v : BitVec 24) (k : Nat) : (octet v k).toNat = v.toNat / 2 ^ (16 - 8 * k) % 2 ^ 8 := by
  rw [octet, BitVec.extractLsb'_toNat, Nat.shiftRight_eq_div_pow]

/-- The four sextets of a group join to the group. -/
theorem join24_sextets (v : BitVec 24) : join24 (sextet v 0) (sextet v 1) (sextet v 2) (sextet v 3) = v := by
  have hv := v.isLt
  apply BitVec.eq_of_toNat_eq
  simp only [join24_toNat, sextet_toNat]
  omega

/-- The three octets of a group are its bytes. -/
theorem octet_group24 (b0 b1 b2 : Byte) :
    octet (group24 b0 b1 b2) 0 = b0 ∧ octet (group24 b0 b1 b2) 1 = b1 ∧ octet (group24 b0 b1 b2) 2 = b2 := by
  have h0 := b0.isLt
  have h1 := b1.isLt
  have h2 := b2.isLt
  simp only [BitVec.toNat_eq, octet_toNat, group24_toNat]
  omega

/-- The sextets that hold only zero fill are 0. -/
theorem sextet_zeroFill (b0 b1 : Byte) :
    sextet (group24 b0 0 0) 2 = 0 ∧ sextet (group24 b0 0 0) 3 = 0 ∧ sextet (group24 b0 b1 0) 3 = 0 := by
  simp only [BitVec.toNat_eq, sextet_toNat, group24_toNat, BitVec.ofNat_eq_ofNat, BitVec.toNat_ofNat]
  omega

/-! ## Decoding (R310 to R313) -/

theorem alphaPrefix_sym (v : BitVec 6) (t : List Byte) : alphaPrefix (sym v :: t) = v :: alphaPrefix t := by
  simp [alphaPrefix]

theorem alphaPrefix_eqSign (t : List Byte) : alphaPrefix (eqSign :: t) = [] := by
  simp [alphaPrefix, symVal_eqSign]

/-- `B64Decode` undoes `B64Encode` (R313). -/
theorem b64Decode_b64Encode (d : List Byte) : b64Decode (b64Encode d) = d := by
  unfold b64Decode
  fun_induction b64Encode d with
  | case1 => rfl
  | case2 b0 v =>
    obtain ⟨h2, h3, -⟩ := sextet_zeroFill b0 0
    have hjoin := join24_sextets (group24 b0 0 0)
    rw [h2, h3] at hjoin
    simp only [v, alphaPrefix_sym, alphaPrefix_eqSign, sextetsToBytes, hjoin, octet_group24]
  | case3 b0 b1 v =>
    obtain ⟨-, -, h3⟩ := sextet_zeroFill b0 b1
    have hjoin := join24_sextets (group24 b0 b1 0)
    rw [h3] at hjoin
    simp only [v, alphaPrefix_sym, alphaPrefix_eqSign, sextetsToBytes, hjoin, octet_group24]
  | case4 b0 b1 b2 d v ih =>
    simp only [v, alphaPrefix_sym, sextetsToBytes, join24_sextets, octet_group24, ih]

theorem sextetsToBytes_length (xs : List (BitVec 6)) : (sextetsToBytes xs).length = 3 * xs.length / 4 := by
  fun_induction sextetsToBytes xs with
  | case1 => rfl
  | case2 => simp
  | case3 => simp
  | case4 => simp
  | case5 x0 x1 x2 x3 xs ih => simp only [List.length_cons, ih]; omega

theorem alphaPrefix_length_le (t : List Byte) : (alphaPrefix t).length ≤ t.length := by
  induction t with
  | nil => exact le_rfl
  | cons ch t ih =>
    rw [alphaPrefix]
    cases symVal ch with
    | none => exact Nat.zero_le _
    | some v => exact Nat.succ_le_succ ih

theorem b64Decode_length_le (t : List Byte) : (b64Decode t).length ≤ 3 * t.length / 4 := by
  have := alphaPrefix_length_le t
  rw [b64Decode, sextetsToBytes_length]
  omega

/-- The values decoded end before a byte outside the alphabet. -/
theorem alphaPrefix_append {ch : Byte} (h : inAlpha ch = false) (t u : List Byte) :
    alphaPrefix (t ++ ch :: u) = alphaPrefix t := by
  have hnone : symVal ch = none := by simpa [inAlpha] using h
  induction t with
  | nil => simp [alphaPrefix, hnone]
  | cons c t ih => simp only [List.cons_append, alphaPrefix, ih]

/-- Settles O22: each group of four characters gives its group of three bytes back. -/
theorem textCodecLaws : Obligations.TextCodecLaws := by
  refine ⟨b64Decode_b64Encode, fun t => ?_, rfl, fun t u ch h => ?_⟩
  · have := b64Decode_length_le t
    omega
  · rw [b64Decode, alphaPrefix_append h, b64Decode]

end Sys2Proof.Machine
end

section
/-!
What each command does (spec/41_key_schedule.md to spec/46_top_level.md): the outcome of each rule, said once per case,
and the statements that follow.
-/

namespace Sys2Proof.Machine

/-! ## NOP, GFMUL and illegal words -/

/-- STATUS after a successful completion shows DONE and CV alone (R120). -/
theorem State.finish_none_status (s : State) : (s.finish none).status = if s.inst.cv then 0x0A else 0x02 := by
  simp only [State.status, State.finish_errCode, State.finish_inst, State.finish_err, State.finish_done,
    State.finish_busy]
  cases s.inst.cv <;> rfl

/-- STATUS after a failure shows the error's code, ERR, DONE and CV (R370). -/
theorem State.finish_some_status (s : State) (e : ErrCode) :
    (s.finish (some e)).status = e.code.setWidth 32 <<< 4 ||| flagBit s.inst.cv 3 ||| 0x06 := by
  simp only [State.status, State.finish_errCode, State.finish_inst, State.finish_err, State.finish_done,
    State.finish_busy]
  cases s.inst.cv <;> cases e <;> rfl

/-- Settles O23: NOP is a completion with no output. -/
theorem nopResult : Obligations.NopResult := fun s =>
  ⟨s.finish none, rfl, ⟨rfl, rfl, rfl, rfl⟩, s.finish_none_status, ⟨rfl, rfl, rfl, rfl, rfl, fun _ => rfl⟩,
    ⟨rfl, fun _ => rfl⟩, rfl, rfl, rfl, rfl, rfl⟩

/-- RESULT holds a byte after it is written (R43). -/
theorem State.putResult_lt (s : State) (r : Byte) : (s.putResult r).result.toNat < 256 := by
  have := r.isLt
  simp only [State.putResult_result, BitVec.toNat_setWidth]
  omega

/-- Settles O24: the product, or a free byte when the input was written, goes to RESULT. -/
theorem gfmulResult : Obligations.GfmulResult := by
  intro s a b
  cases hc : s.inputChanged with
  | false =>
    exact ⟨_, execGfmul_closed hc a b, ⟨rfl, rfl, rfl, rfl⟩, fun _ => ⟨rfl, rfl, rfl⟩, s.putResult_lt _,
      ⟨rfl, rfl, rfl, rfl, rfl, fun _ => rfl⟩, ⟨rfl, fun _ => rfl⟩, rfl, rfl⟩
  | true =>
    exact ⟨_, execGfmul_open hc a b, ⟨rfl, rfl, rfl, rfl⟩, nofun, s.putResult_lt _,
      ⟨rfl, rfl, rfl, rfl, rfl, fun _ => rfl⟩, ⟨rfl, fun _ => rfl⟩, rfl, rfl⟩

/-- Settles O41: the core's turn is then a failure that clears no output. -/
theorem illegalWordsComplete : Obligations.IllegalWordsComplete := by
  intro s w hf hw
  refine ⟨_, State.coreTurn_illegal hf hw, ⟨rfl, rfl, rfl, rfl⟩, ?_, ⟨rfl, rfl, rfl, rfl, rfl, fun _ => rfl⟩,
    ⟨rfl, fun _ => rfl⟩, rfl, rfl, rfl, rfl, rfl⟩
  rw [State.finish_some_status]
  cases s.inst.cv <;> rfl

/-! ## NEW_CIPHER (R186, R187) -/

theorem keyOf_append {k : List Byte} (h : k.length = 32) (v : List Byte) : (keyOf (k ++ v)).toList = k := by
  apply List.ext_getElem (by simp [h])
  intro i h1 h2
  simp [keyOf, List.getElem?_append_left h2, List.getElem?_eq_getElem h2]

theorem ivOf_append {k v : List Byte} (hk : k.length = 32) (hv : v.length = 16) : (ivOf (k ++ v)).toBytes = v := by
  rw [ivOf, List.drop_left' hk, Block.toBytes_ofBytes hv]

/-- NEW_CIPHER's success writes KEY, IV, W, CV and STATUS (R186). -/
theorem putInst_finish_none (s : State) {c : CipherInst} (hcv : c.cv = true) :
    let t := (s.putInst c).finish none
    t.Succeeded ∧ t.status = 0x0A ∧ t.inst = c ∧ s.SameSurroundings t ∧ s.SameOut t ∧ t.work = s.work ∧
      t.result = s.result ∧ s.NothingOpen t := by
  refine ⟨⟨rfl, rfl, rfl, rfl⟩, ?_, rfl, ⟨rfl, rfl, rfl, rfl, rfl, fun _ => rfl⟩, ⟨rfl, fun _ => rfl⟩, rfl, rfl,
    rfl, rfl⟩
  rw [State.finish_none_status, State.putInst_inst, hcv, if_pos rfl]

/-- Settles O25: the 48 bytes are all written, so they are read as they are. -/
theorem newCipherResult : Obligations.NewCipherResult := by
  intro s k v hk hv hc hbytes
  have hlen : (k ++ v).length = 48 := by simp [hk, hv]
  have hinput : s.inBytes 48 = k ++ v := hlen ▸ State.inBytes_of_hasBytes hc hbytes
  have hread : s.readInput (.newCipher 32 16) 48 = s :=
    State.readInput_eq_self (hlen ▸ State.unwrittenBelow_of_hasBytes hbytes) hc _
  obtain ⟨hdone, hstatus, hinst, hframe⟩ := putInst_finish_none s (c := instanceOf (k ++ v)) rfl
  refine ⟨_, by rw [execNewCipher_legal, hinput, hread], hdone, hstatus, ?_⟩
  rw [hinst]
  exact ⟨keyOf_append hk v, ivOf_append hk hv, rfl, rfl, hframe⟩

/-- What NEW_CIPHER clears is all zero (R187). -/
theorem cleared_zero :
    CipherInst.cleared.key.toList = List.replicate 32 0 ∧ CipherInst.cleared.iv.toBytes = List.replicate 16 0 ∧
      CipherInst.cleared.w.toList = List.replicate 60 0 ∧ CipherInst.cleared.cv = false := by
  simp [CipherInst.cleared, Block.toBytes, Col.toBytes, List.replicate]

/-- NEW_CIPHER's failure clears KEY, IV, W and CV, and writes STATUS (R187). -/
theorem clearInst_finish_some (s : State) (e : ErrCode) :
    let t := (s.putInst CipherInst.cleared).finish (some e)
    t.Failed e ∧ t.status = e.code.setWidth 32 <<< 4 ||| 0x06 ∧ t.inst.key.toList = List.replicate 32 0 ∧
      t.inst.iv.toBytes = List.replicate 16 0 ∧ t.inst.w.toList = List.replicate 60 0 ∧ t.inst.cv = false ∧
      s.SameSurroundings t ∧ s.SameOut t ∧ t.work = s.work ∧ t.result = s.result ∧ s.NothingOpen t := by
  obtain ⟨hkey, hiv, hw, hcv⟩ := cleared_zero
  refine ⟨⟨rfl, rfl, rfl, rfl⟩, ?_, hkey, hiv, hw, hcv, ⟨rfl, rfl, rfl, rfl, rfl, fun _ => rfl⟩, ⟨rfl, fun _ => rfl⟩,
    rfl, rfl, rfl, rfl⟩
  rw [State.finish_some_status, State.putInst_inst, hcv]
  cases e <;> rfl

/-- Settles O26: the key's length is looked at first, and either failure clears the same registers. -/
theorem newCipherFailure : Obligations.NewCipherFailure := by
  intro s klen ivlen h
  by_cases hk : klen = 32
  · subst hk
    obtain ⟨hfailed, hstatus, hframe⟩ := clearInst_finish_some s .invalidIvLength
    exact ⟨_, execNewCipher_badIv s (h.resolve_left fun h => h rfl), hfailed, hstatus, hframe⟩
  · obtain ⟨hfailed, hstatus, hframe⟩ := clearInst_finish_some s .invalidKeyLength
    rw [if_neg hk, if_neg hk]
    exact ⟨_, execNewCipher_badKey s hk ivlen, hfailed, hstatus, hframe⟩

/-! ## The rules that succeed -/

/-- The empty input has the empty output (C3). -/
theorem encryptRule_empty {c : Ctx} (hcv : c.inst.cv = true) (h : c.n = 0) : (encryptRule c).2 = .ok [] := by
  simp [encryptRule, hcv, h]

/-- The empty token has the empty output (C3). -/
theorem decryptRule_empty {c : Ctx} (hcv : c.inst.cv = true) (h : c.n = 0) : (decryptRule c).2 = .ok [] := by
  simp [decryptRule, hcv, h]

section
variable {c : Ctx} (hn : c.n ≤ c.buf) (hcv : c.inst.cv = true)
include hn

theorem padRule_ok (h : paddedLen c.n ≤ c.buf) : padRule c = (c.work, .ok (pad c.inp)) := by
  simp [padRule, Nat.not_lt.2 hn, Nat.not_lt.2 h]

theorem unpadRule_ok {e : List Byte} (h : unpad c.inp = some e) : unpadRule c = (c.work, .ok e) := by
  simp [unpadRule, Nat.not_lt.2 hn, h]

theorem unpadRule_error (h : unpad c.inp = none) : unpadRule c = (c.work, .error .invalidPadding) := by
  simp [unpadRule, Nat.not_lt.2 hn, h]

theorem b64EncRule_ok (h : b64Len c.n ≤ c.buf) : b64EncRule c = (c.work, .ok (b64Encode c.inp)) := by
  simp [b64EncRule, Nat.not_lt.2 hn, Nat.not_lt.2 h]

theorem b64DecRule_ok : b64DecRule c = (c.work, .ok (b64Decode c.inp)) := by
  simp [b64DecRule, Nat.not_lt.2 hn]

include hcv

theorem encBlockRule_ok (h : c.n = 16) :
    (encBlockRule c).2 = .ok (cipher c.inst.w (Block.ofBytes c.inp)).toBytes := by
  simp [encBlockRule, hcv, h, Nat.not_lt.2 (h ▸ hn)]

theorem decBlockRule_ok (h : c.n = 16) :
    (decBlockRule c).2 = .ok (invCipher c.inst.w (Block.ofBytes c.inp)).toBytes := by
  simp [decBlockRule, hcv, h, Nat.not_lt.2 (h ▸ hn)]

theorem cbcEncRule_ok (h : c.n % 16 = 0) : (cbcEncRule c).2 = .ok (cbcEncrypt c.inst.w c.inst.iv c.inp) := by
  simp [cbcEncRule, Nat.not_lt.2 hn, hcv, h]

theorem cbcDecRule_ok (h : c.n % 16 = 0) : (cbcDecRule c).2 = .ok (cbcDecrypt c.inst.w c.inst.iv c.inp) := by
  simp [cbcDecRule, Nat.not_lt.2 hn, hcv, h]

theorem encryptRule_ok (h0 : c.n ≠ 0) (h : tokenLen c.n ≤ c.buf) :
    (encryptRule c).2 = .ok (b64Encode (cbcEncrypt c.inst.w c.inst.iv (pad c.inp))) := by
  simp [encryptRule, Nat.not_lt.2 hn, hcv, h0, Nat.not_lt.2 h]

theorem decryptRule_length (h0 : c.n ≠ 0) (h : (b64Decode c.inp).length % 16 ≠ 0) :
    (decryptRule c).2 = .error .invalidCiphertextLength := by
  simp [decryptRule, Nat.not_lt.2 hn, hcv, h0, h]

theorem decryptRule_padding (h0 : c.n ≠ 0) (h : (b64Decode c.inp).length % 16 = 0)
    (hu : unpad (cbcDecrypt c.inst.w c.inst.iv (b64Decode c.inp)) = none) :
    (decryptRule c).2 = .error .invalidPadding := by
  simp [decryptRule, Nat.not_lt.2 hn, hcv, h0, h, hu]

theorem decryptRule_ok (h0 : c.n ≠ 0) (h : (b64Decode c.inp).length % 16 = 0) {e : List Byte}
    (hu : unpad (cbcDecrypt c.inst.w c.inst.iv (b64Decode c.inp)) = some e) : (decryptRule c).2 = .ok e := by
  simp [decryptRule, Nat.not_lt.2 hn, hcv, h0, h, hu]

end

/-! ## The commands that succeed -/

/-- The context of a command whose input is `d`. -/
abbrev State.ctxOf (s : State) (d : List Byte) : Ctx := ⟨s.cfg.bufBytes, s.inst, d.length, d, s.work⟩

/-- The length of an input is a 32-bit number. -/
theorem State.TakesInput.length_lt {s : State} {d : List Byte} (h : s.TakesInput d) : d.length < 2 ^ 32 :=
  h.1.2.1 ▸ s.inLen.isLt

/-- `delivers_of_rule` by the output alone. -/
theorem delivers_of_output {i : Instr} (hi : instrIsOut i = true) {s : State} {d out : List Byte} (ht : s.TakesInput d)
    (hr : (ruleOf i (s.ctxOf d)).2 = .ok out) (hl : out.length < 2 ^ 32) : Delivers i s out :=
  delivers_of_rule hi ht (ruleOf i (s.ctxOf d)).1 (Prod.ext rfl hr) hl

/-- Settles O27: the rules pass their checks. -/
theorem blockCommandResults : Obligations.BlockCommandResults := fun s d ht hcv h16 =>
  ⟨delivers_of_output (i := .encBlock) rfl ht (encBlockRule_ok ht.2 hcv h16) (by simp),
    delivers_of_output (i := .decBlock) rfl ht (decBlockRule_ok ht.2 hcv h16) (by simp)⟩

/-- Settles O28: the rules pass their checks, and the chaining functions keep the length. -/
theorem chainCommandResults : Obligations.ChainCommandResults := by
  intro s d ht hcv h16
  have hlen := ht.length_lt
  exact ⟨delivers_of_output (i := .cbcEnc) rfl ht (cbcEncRule_ok ht.2 hcv h16) (by rw [cbcEncrypt_length]; omega),
    delivers_of_output (i := .cbcDec) rfl ht (cbcDecRule_ok ht.2 hcv h16) (by rw [cbcDecrypt_length]; omega)⟩

/-- A padded length that is a multiple of 16 fits where the input leaves a byte free (R284). -/
theorem paddedLen_le_iff {b : Nat} (hb : b % 16 = 0) (n : Nat) : paddedLen n ≤ b ↔ n < b := by
  unfold paddedLen
  omega

/-- Settles O29: the padded length fits exactly when the input leaves a byte free. -/
theorem padResult : Obligations.PadResult := by
  intro s d hcfg ht hlt
  have hfit : paddedLen d.length ≤ s.cfg.bufBytes := (paddedLen_le_iff hcfg.1 _).2 hlt
  have hsize := hcfg.2.2
  exact delivers_of_output (i := .pad) rfl ht (congrArg Prod.snd (padRule_ok ht.2 hfit)) (by
    rw [← padLen, ← pad, pad_length]; omega)

/-- Settles O30: the two clauses are the two outcomes of `Unpad`. -/
theorem unpadResult : Obligations.UnpadResult := by
  intro s d ht
  have hlen := ht.length_lt
  refine ⟨fun e p h1 h16 hd => ?_, fun hnone => ?_⟩
  · have hu : unpad d = some e := unpad_eq_some_iff.2 ⟨p, h1, h16, hd⟩
    have := unpad_length hu
    exact delivers_of_output (i := .unpad) rfl ht (congrArg Prod.snd (unpadRule_ok ht.2 hu)) (by omega)
  · have hu : unpad d = none := by
      rw [Option.eq_none_iff_forall_ne_some]
      exact fun e he => hnone ⟨e, unpad_eq_some_iff.1 he⟩
    apply failsWith_of_rule rfl
    rw [State.ctx_of_takesInput ht]
    exact congrArg Prod.snd (unpadRule_error ht.2 hu)

/-- Settles O31: the token's length is known from n, and the decoded bytes are fewer than the characters. -/
theorem textCommandResults : Obligations.TextCommandResults := by
  intro s d hcfg ht
  have hlen := ht.length_lt
  have hsize := hcfg.2.2
  refine ⟨fun hfit => ?_, ?_⟩
  · exact delivers_of_output (i := .b64Enc) rfl ht (congrArg Prod.snd (b64EncRule_ok (c := s.ctxOf d) ht.2 hfit))
      (by rw [b64Encode_length, b64Len]; omega)
  · have := b64Decode_length_le d
    exact delivers_of_output (i := .b64Dec) rfl ht (congrArg Prod.snd (b64DecRule_ok ht.2)) (by omega)

/-! ## ENCRYPT and DECRYPT (R332 to R342) -/

/-- The length of the token of a nonempty input (R333). -/
theorem token_length (w : Schedule) (iv : Block) (d : List Byte) :
    (b64Encode (cbcEncrypt w iv (pad d))).length = tokenLen d.length := by
  have halign : 16 * (paddedLen d.length / 16) = paddedLen d.length := by unfold paddedLen; omega
  rw [b64Encode_length, cbcEncrypt_length, pad_length, halign, tokenLen]

/-- Settles O32: the length checked is the token's own. -/
theorem encryptResult : Obligations.EncryptResult := by
  intro s d hcfg ht hcv
  have hsize := hcfg.2.2
  refine ⟨fun hd => ?_, fun hd hfit => ?_⟩
  · subst hd
    exact delivers_of_output (i := .encrypt) rfl ht (encryptRule_empty hcv rfl) (by simp)
  · have hne : d.length ≠ 0 := mt List.length_eq_zero_iff.1 hd
    refine delivers_of_output (i := .encrypt) rfl ht (encryptRule_ok ht.2 hcv hne hfit) ?_
    rw [token_length]
    have : tokenLen d.length ≤ s.cfg.bufBytes := hfit
    omega

/-- Settles O33: each stage of DECRYPT has its clause. -/
theorem decryptResult : Obligations.DecryptResult := by
  intro s d ht hcv
  have hctx : ∀ {e}, (decryptRule (s.ctxOf d)).2 = .error e → FailsWith .decrypt s e := fun h =>
    failsWith_of_rule rfl (by rw [State.ctx_of_takesInput ht]; exact h)
  have hne : d ≠ [] → d.length ≠ 0 := mt List.length_eq_zero_iff.1
  refine ⟨fun hd => ?_, fun hd h => hctx (decryptRule_length ht.2 hcv (hne hd) h),
    fun hd h hu => hctx (decryptRule_padding ht.2 hcv (hne hd) h hu), fun e hd h hu => ?_⟩
  · subst hd
    exact delivers_of_output (i := .decrypt) rfl ht (decryptRule_empty hcv rfl) (by simp)
  · have hlen := ht.length_lt
    have hunpad := unpad_length hu
    have hdecode := b64Decode_length_le d
    rw [cbcDecrypt_length] at hunpad
    exact delivers_of_output (i := .decrypt) rfl ht (decryptRule_ok ht.2 hcv (hne hd) h hu) (by omega)

/-- Settles O34: each stage of DECRYPT undoes the stage of ENCRYPT, in the opposite order. -/
theorem encryptThenDecrypt : Obligations.EncryptThenDecrypt := by
  intro s p hcfg hcv ht hfit
  obtain ⟨hempty, hfull⟩ := encryptResult s p hcfg ht hcv
  by_cases hp : p = []
  · refine ⟨[], hempty hp, fun u hinst hbuf hu => ?_⟩
    subst hp
    exact (decryptResult u [] ⟨hu, by simp⟩ (hinst ▸ hcv)).1 rfl
  · refine ⟨_, hfull hp hfit, fun u hinst hbuf hu => ?_⟩
    have hlen := token_length s.inst.w s.inst.iv p
    have halign : (pad p).length % 16 = 0 := by rw [pad_length, paddedLen]; omega
    have htake : u.TakesInput (b64Encode (cbcEncrypt s.inst.w s.inst.iv (pad p))) :=
      ⟨hu, by rw [hlen, hbuf]; exact hfit⟩
    obtain ⟨-, -, -, hok⟩ := decryptResult u _ htake (hinst ▸ hcv)
    refine hok p (fun h => ?_) ?_ ?_
    · rw [h, List.length_nil, tokenLen, paddedLen, b64Len] at hlen
      omega
    · rw [b64Decode_b64Encode, cbcEncrypt_length]
      omega
    · rw [b64Decode_b64Encode, hinst, cbcDecrypt_cbcEncrypt _ _ halign, unpad_pad]

/-! ## Errors (R360 to R371) -/

/-- Every IN-class command checks IN_LEN first (R367). -/
theorem ruleOf_tooLong {i : Instr} (hi : instrIsOut i = true) {c : Ctx} (h : c.buf < c.n) :
    (ruleOf i c).2 = .error .capacityExceeded := by
  cases i <;> cases hi <;> exact congrArg Prod.snd (if_pos h)

/-- Every KEY-class command checks CV second (R367). -/
theorem ruleOf_noCipher {i : Instr} (hi : instrIsKey i = true) {c : Ctx} (hn : c.n ≤ c.buf) (hcv : c.inst.cv = false) :
    (ruleOf i c).2 = .error .noCipher := by
  cases i <;> cases hi <;> exact congrArg Prod.snd ((if_neg (Nat.not_lt.2 hn)).trans (if_pos hcv))

theorem instrIsOut_of_key {i : Instr} (h : instrIsKey i = true) : instrIsOut i = true := by
  cases i <;> cases h <;> rfl

section
variable {c : Ctx} (hn : c.n ≤ c.buf) (hcv : c.inst.cv = true)
include hn

theorem padRule_tooLong (h : c.buf < paddedLen c.n) : (padRule c).2 = .error .capacityExceeded := by
  simp [padRule, Nat.not_lt.2 hn, h]

theorem b64EncRule_tooLong (h : c.buf < b64Len c.n) : (b64EncRule c).2 = .error .capacityExceeded := by
  simp [b64EncRule, Nat.not_lt.2 hn, h]

include hcv

theorem encryptRule_tooLong (h0 : c.n ≠ 0) (h : c.buf < tokenLen c.n) :
    (encryptRule c).2 = .error .capacityExceeded := by
  simp [encryptRule, Nat.not_lt.2 hn, hcv, h0, h]

theorem blockRules_length (h : c.n ≠ 16) :
    (encBlockRule c).2 = .error .invalidInputLength ∧ (decBlockRule c).2 = .error .invalidCiphertextLength := by
  simp [encBlockRule, decBlockRule, Nat.not_lt.2 hn, hcv, h]

theorem cbcRules_length (h : c.n % 16 ≠ 0) :
    (cbcEncRule c).2 = .error .invalidInputLength ∧ (cbcDecRule c).2 = .error .invalidCiphertextLength := by
  simp [cbcEncRule, cbcDecRule, Nat.not_lt.2 hn, hcv, h]

end

/-- With no write to the input, a rule is given IN_LEN. -/
theorem State.ctx_n {s : State} (h : s.inputChanged = false) : s.ctx.n = s.inLen.toNat := by
  simp [State.ctx, State.inCount, h]

/-- Settles O35: the checks in the order of R367. -/
theorem inputChecksInOrder : Obligations.InputChecksInOrder := by
  intro s hc
  have hn := State.ctx_n hc
  refine ⟨fun i hi h => failsWith_of_rule hi (ruleOf_tooLong hi (hn ▸ h)),
    fun i hi h hcv => failsWith_of_rule (instrIsOut_of_key hi) (ruleOf_noCipher hi (hn ▸ h) hcv), fun h hcv => ?_⟩
  rw [← hn] at h ⊢
  refine ⟨fun h16 => ?_, fun h16 => ?_⟩
  · obtain ⟨henc, hdec⟩ := blockRules_length h hcv h16
    exact ⟨failsWith_of_rule (i := .encBlock) rfl henc, failsWith_of_rule (i := .decBlock) rfl hdec⟩
  · obtain ⟨henc, hdec⟩ := cbcRules_length h hcv h16
    exact ⟨failsWith_of_rule (i := .cbcEnc) rfl henc, failsWith_of_rule (i := .cbcDec) rfl hdec⟩

/-- Settles O36: each rule's length check, known from n alone. -/
theorem outputCapacity : Obligations.OutputCapacity := by
  intro s hc h
  rw [← State.ctx_n hc] at h ⊢
  refine ⟨fun hcv h0 hlong => failsWith_of_rule (i := .encrypt) rfl (encryptRule_tooLong h hcv h0 hlong),
    fun hlong => failsWith_of_rule (i := .pad) rfl (padRule_tooLong h hlong),
    fun hlong => failsWith_of_rule (i := .b64Enc) rfl (b64EncRule_tooLong h hlong), fun hcfg => ?_⟩
  have := paddedLen_le_iff hcfg.1 s.ctx.n
  rw [paddedLen] at this
  omega

end Sys2Proof.Machine
end

section
/-!
What every command can and cannot do, from the list of all outcomes of `exec` (spec/10_state.md R46,
spec/60_exceptions.md R361 to R371, spec/70_reset_and_hazards.md R413).
-/

namespace Sys2Proof.Machine

/-- A command has one outcome. -/
theorem eq_of_exec {i : Instr} {s t u : State} (ht : exec i s = .next t) (hu : exec i s = .next u) : t = u :=
  Host.Outcome.next.inj (ht.symm.trans hu)

/-- What an OUT-class command leaves alone (R46). -/
theorem runOut_frame (i : Instr) (rule : Ctx → Work × Except ErrCode (List Byte)) (s : State) :
    s.SameSurroundings (runOut i rule s) ∧ (runOut i rule s).inst = s.inst ∧ (runOut i rule s).result = s.result := by
  rw [runOut_eq]
  simp [State.SameSurroundings]

/-- An OUT-class command ends in success or in its rule's error (R120). -/
theorem runOut_completion (i : Instr) (rule : Ctx → Work × Except ErrCode (List Byte)) (s : State) :
    (runOut i rule s).Succeeded ∨ ∃ e, (rule s.ctx).2 = .error e ∧ (runOut i rule s).Failed e := by
  rw [runOut_eq]
  cases (rule s.ctx).2 with
  | ok out => exact .inl ⟨rfl, rfl, rfl, rfl⟩
  | error e => exact .inr ⟨e, rfl, rfl, rfl, rfl, rfl⟩

/-- NEW_CIPHER may raise its two errors (R360). -/
theorem keyload_error_listed {i : Instr} (hi : instrIsKeyload i = true) {e : ErrCode}
    (he : e = .invalidKeyLength ∨ e = .invalidIvLength) : e ∈ listedErrors i := by
  cases i <;> cases hi
  simpa [listedErrors] using he

/-- Settles O37: each outcome of `exec` is a completion, and the errors are those of the rules. -/
theorem onlyListedErrors : Obligations.OnlyListedErrors := by
  intro i s t h
  rcases exec_outcomes i s with ⟨hi, hx⟩ | ⟨-, hx⟩ | ⟨e, hi, he, hx⟩ | ⟨-, hx⟩ | ⟨a, b, r, k, -, hx⟩ <;>
    obtain rfl := eq_of_exec h hx
  · exact (runOut_completion i _ s).imp_right fun ⟨e, he, hf⟩ => ⟨e, ruleOf_error_listed hi he, hf⟩
  · exact .inl ⟨rfl, rfl, rfl, rfl⟩
  · exact .inr ⟨e, keyload_error_listed hi he, rfl, rfl, rfl, rfl⟩
  · exact .inl ⟨rfl, rfl, rfl, rfl⟩
  · exact .inl ⟨rfl, rfl, rfl, rfl⟩

theorem not_out_of_keyload {i : Instr} (h : instrIsKeyload i = true) : instrIsOut i = false := by
  cases i <;> cases h
  rfl

/-- Settles O38: a failure is an OUT-class command's or a NEW_CIPHER's. -/
theorem failuresArePrecise : Obligations.FailuresArePrecise := by
  intro i s t h herr
  rcases exec_outcomes i s with ⟨hi, hx⟩ | ⟨-, hx⟩ | ⟨e, hi, he, hx⟩ | ⟨-, hx⟩ | ⟨a, b, r, k, -, hx⟩
  · obtain rfl := eq_of_exec h hx
    rcases runOut_completion i (ruleOf i) s with ⟨-, -, hok, -⟩ | ⟨e, he, -⟩
    · rw [hok] at herr; cases herr
    · obtain ⟨u, hu, hfailed, hholds, hsame, hinst, hresult⟩ := failsWith_of_rule hi he
      obtain rfl := eq_of_exec hx hu
      exact ⟨⟨e, ruleOf_error_listed hi he, hfailed⟩, hsame, hresult, fun _ => ⟨hinst, hholds⟩,
        fun hno => absurd (hi.symm.trans hno) (by decide)⟩
  · obtain rfl := eq_of_exec h hx
    cases herr
  · obtain rfl := eq_of_exec h hx
    obtain ⟨hfailed, -, -, -, -, -, hsame, hout, -, hresult, -⟩ := clearInst_finish_some s e
    exact ⟨⟨e, keyload_error_listed hi he, hfailed⟩, hsame, hresult,
      fun hyes => absurd (hyes.symm.trans (not_out_of_keyload hi)) (by decide), fun _ => ⟨hi, rfl, hout⟩⟩
  · obtain rfl := eq_of_exec h hx
    cases herr
  · obtain rfl := eq_of_exec h hx
    cases herr

/-- Settles O39: each outcome of `exec` writes what its class may write. -/
theorem commandsKeepTheWriteMap : Obligations.CommandsKeepTheWriteMap := by
  intro i s t h
  rcases exec_outcomes i s with ⟨hi, hx⟩ | ⟨-, hx⟩ | ⟨e, hi, -, hx⟩ | ⟨rfl, hx⟩ | ⟨a, b, r, k, rfl, hx⟩ <;>
    obtain rfl := eq_of_exec h hx
  · obtain ⟨hsame, hinst, hresult⟩ := runOut_frame i (ruleOf i) s
    exact ⟨hsame, fun _ => hinst, fun hno => absurd (hi.symm.trans hno) (by decide), fun _ => hresult⟩
  · exact ⟨⟨rfl, rfl, rfl, rfl, rfl, fun _ => rfl⟩, fun _ => rfl, fun _ => ⟨rfl, fun _ => rfl⟩, fun _ => rfl⟩
  · exact ⟨⟨rfl, rfl, rfl, rfl, rfl, fun _ => rfl⟩, fun hno => absurd (hi.symm.trans hno) (by decide),
      fun _ => ⟨rfl, fun _ => rfl⟩, fun _ => rfl⟩
  · simp [State.SameSurroundings, State.SameOut, instrIsKeyload]
  · exact ⟨⟨rfl, rfl, rfl, rfl, rfl, fun _ => rfl⟩, fun _ => rfl, fun _ => ⟨rfl, fun _ => rfl⟩, nofun⟩

/-! ## Unwritten input (R413) -/

theorem State.unwrittenBelow_eq_true {s : State} {k : Nat} :
    s.unwrittenBelow k = true ↔ ∃ a, a < k ∧ s.inBuf.read a = none := by
  simp [State.unwrittenBelow, List.any_eq_true]

/-- The recorded faults after a command that reads the range IN[0..n). -/
theorem exec_faults_of_range {s : State} {i : Instr} {n : Nat}
    (h : (instrIsOut i = true ∧ n = s.rangeLen) ∨ (i = .newCipher 32 16 ∧ n = 48)) :
    ∃ t, exec i s = .next t ∧ t.faults = (s.readInput i n).faults := by
  rcases h with ⟨hi, rfl⟩ | ⟨rfl, rfl⟩
  · exact ⟨_, exec_out hi s, by
      rw [runOut_eq, State.finish_faults, State.putOut_faults, State.putWork_faults]⟩
  · exact ⟨_, execNewCipher_legal s, by rw [State.finish_faults, State.putInst_faults]⟩

/-- Settles O42: the one fault a command may add is that of the range it reads. -/
theorem unwrittenInputIsRecorded : Obligations.UnwrittenInputIsRecorded := by
  intro s i n h
  obtain ⟨t, hexec, hfaults⟩ := exec_faults_of_range h
  rw [State.readInput_faults] at hfaults
  refine ⟨fun hsome => ⟨t, hexec, ?_⟩, fun hall => ⟨t, hexec, ?_⟩⟩
  · rw [hfaults, if_pos (State.unwrittenBelow_eq_true.2 hsome)]
  · rw [hfaults, if_neg fun hsome => ?_]
    obtain ⟨a, ha, hnone⟩ := State.unwrittenBelow_eq_true.1 hsome
    exact hall a ha hnone

end Sys2Proof.Machine
end

section
/-!
The host port: what a write does in each part of the map (spec/20_memory.md R75 to R80, spec/70_reset_and_hazards.md
R411), the byte order of IN_BUF, and the STATUS word and reset values that the host finds.
-/

namespace Sys2Proof.Machine

/-! ## What a write does -/

/-- An illegal write records BusError and does nothing else (R79). -/
theorem State.hostWrite_illegal {s : State} {a n : Nat} (h : legalAccess s.cfg a n = false) (v : Word) :
    s.hostWrite a n v = s.record (.busError s.host.line) := if_neg (by simp [h])

/-- A legal write to IN_LEN (R77). -/
theorem State.hostWrite_inLen {s : State} {n : Nat} (h : legalAccess s.cfg 0x00008 n = true) (v : Word) :
    s.hostWrite 0x00008 n v = s.writeInLen v := if_pos h

/-- A legal write to the IN_BUF window (R77). -/
theorem State.hostWrite_in {s : State} {a n : Nat} (h : legalAccess s.cfg a n = true)
    (hw : 0x10000 ≤ a ∧ a < 0x10000 + s.cfg.bufBytes) (v : Word) : s.hostWrite a n v = s.writeIn a n v := by
  rw [State.hostWrite, if_pos h, if_neg (by unfold offCmd; omega), if_neg (by unfold offInLen; omega),
    if_pos (inWindow_iff.2 hw)]

/-- A legal write outside CMD, IN_LEN and the IN_BUF window is ignored (R77, R80). -/
theorem State.hostWrite_ignored {s : State} {a n : Nat} (h : legalAccess s.cfg a n = true) (hcmd : a ≠ 0x00000)
    (hlen : a ≠ 0x00008) (hw : a < 0x10000 ∨ 0x10000 + s.cfg.bufBytes ≤ a) (v : Word) : s.hostWrite a n v = s := by
  rw [State.hostWrite, if_pos h, if_neg (show a ≠ offCmd from hcmd), if_neg (show a ≠ offInLen from hlen),
    if_neg (by rw [inWindow_eq_false.2 hw]; decide)]

/-- While BUSY = 1 a write to the input is recorded, and the input is open from then on (R411). -/
theorem State.inputHazard_exec {s : State} {w : Word} (h : s.fsm = .exec w) :
    s.inputHazard = { s.record (.hazardInputWrite s.host.line) with inputChanged := true } := by
  rw [State.inputHazard, State.busy_of_exec s w h, if_pos rfl]

theorem State.writeInLen_idle {s : State} (h : s.fsm = .idle) (v : Word) : s.writeInLen v = { s with inLen := v } := by
  rw [State.writeInLen, State.inputHazard_idle h]

theorem State.writeInLen_exec {s : State} {w : Word} (h : s.fsm = .exec w) (v : Word) :
    s.writeInLen v =
      { s with inLen := v, inputChanged := true, faults := Fault.hazardInputWrite s.host.line :: s.faults } := by
  rw [State.writeInLen, State.inputHazard_exec h]
  rfl

theorem State.writeIn_idle {s : State} (h : s.fsm = .idle) (a n : Nat) (v : Word) :
    s.writeIn a n v = { s with inBuf := writeBytes s.inBuf (a - offIn) n v } := by
  rw [State.writeIn, State.inputHazard_idle h]

theorem State.writeIn_exec {s : State} {w : Word} (h : s.fsm = .exec w) (a n : Nat) (v : Word) :
    s.writeIn a n v =
      { s with
        inBuf := writeBytes s.inBuf (a - offIn) n v
        inputChanged := true
        faults := Fault.hazardInputWrite s.host.line :: s.faults } := by
  rw [State.writeIn, State.inputHazard_exec h]
  rfl

/-- Settles O43: the write of each window, idle and busy. -/
theorem inputWritesTakeEffect : Obligations.InputWritesTakeEffect := by
  intro s a n v h
  refine ⟨fun ha => ?_, fun hlo hhi =>
    ⟨writeBytes s.inBuf (a - 0x10000) n v, writeBytes_read _ _ v (legalAccess_width h), ?_⟩⟩
  · subst ha
    rw [State.hostWrite_inLen h]
    exact ⟨fun hidle => State.writeInLen_idle hidle v, fun w hbusy => State.writeInLen_exec hbusy v⟩
  · rw [State.hostWrite_in h ⟨hlo, hhi⟩]
    exact ⟨fun hidle => State.writeIn_idle hidle a n v, fun w hbusy => State.writeIn_exec hbusy a n v⟩

/-- Settles O50: the two equations of an illegal access. -/
theorem illegalAccessesAreBusErrors : Obligations.IllegalAccessesAreBusErrors := fun _ x _ _ v h =>
  ⟨State.hostWrite_illegal h v, State.hostRead_illegal x h⟩

/-- Settles O51: with a legal size the OUT_BUF window lies above the IN_BUF window. -/
theorem readOnlyWritesAreIgnored : Obligations.ReadOnlyWritesAreIgnored := by
  intro s a n v hcfg h ha
  have hsize := hcfg.2.2
  exact State.hostWrite_ignored h (by omega) (by omega) (by omega) v

/-! ## The byte order of IN_BUF (R75) -/

/-- A word of IN_BUF may be written whole, and byte by byte (R78). -/
theorem legalAccess_in {c : Config} (hc : c.legal) {m j n : Nat} (hm : 4 * m < c.bufBytes)
    (hn : n = 1 ∧ j < 4 ∨ n = 4 ∧ j = 0) : legalAccess c (0x10000 + (4 * m + j)) n = true := by
  have halign := hc.1
  exact (legalAccesses c _ n hc).2 (.inr ⟨by omega, .inl (by omega), by omega⟩)

/-- What a write to byte j of word m of IN_BUF leaves in IN_BUF. -/
theorem State.hostWrite_inBuf {s : State} (hc : s.cfg.legal) {m j n : Nat} (hm : 4 * m < s.cfg.bufBytes)
    (hn : n = 1 ∧ j < 4 ∨ n = 4 ∧ j = 0) (v : Word) :
    (s.hostWrite (0x10000 + (4 * m + j)) n v).inBuf = writeBytes s.inBuf (4 * m + j) n v := by
  have halign := hc.1
  rw [State.hostWrite_in (legalAccess_in hc hm hn) (by omega)]
  exact congrArg (fun i => writeBytes s.inBuf i n v) (Nat.add_sub_cancel_left 0x10000 (4 * m + j))

/-- Two words with the same bytes are equal (R75). -/
theorem eq_of_leByte {v w : Word} (h : ∀ j, j < 4 → leByte v j = leByte w j) : v = w :=
  calc
    v = leWord (leByte v 0) (leByte v 1) (leByte v 2) (leByte v 3) := (leWord_leByte v).symm
    _ = leWord (leByte w 0) (leByte w 1) (leByte w 2) (leByte w 3) := by
      rw [h 0 (by decide), h 1 (by decide), h 2 (by decide), h 3 (by decide)]
    _ = w := leWord_leByte w

/-- A 32-bit read of a word of IN_BUF whose byte j has a value shows it in bits [8j+7:8j] (R75). -/
theorem State.readValue_in_byte {s : State} {m j : Nat} {b : Byte} (hm : 4 * m < s.cfg.bufBytes) (hj : j < 4)
    (h : s.inBuf.read (4 * m + j) = some b) : (s.readValue (0x10000 + 4 * m) 4).extractLsb' (8 * j) 8 = b := by
  have hbyte (k : Nat) : portByte s.inBuf (4 * m + j) k = b := by rw [portByte, h, Option.getD_some]
  rw [s.readValue_in 4 hm, portValue, if_neg (by decide)]
  interval_cases j
  · exact (leByte_leWord_0 _ _ _ _).trans (hbyte _)
  · exact (leByte_leWord_1 _ _ _ _).trans (hbyte _)
  · exact (leByte_leWord_2 _ _ _ _).trans (hbyte _)
  · exact (leByte_leWord_3 _ _ _ _).trans (hbyte _)

/-- The core is idle or runs a word (R44). -/
theorem State.idle_or_exec (s : State) : s.fsm = .idle ∨ ∃ w, s.fsm = .exec w := by
  cases s.fsm <;> simp

/-- A host write to the IN_BUF window changes the buffer and, while BUSY = 1, records the hazard (R411). -/
theorem State.writeIn_frame (s : State) (a n : Nat) (v : Word) :
    ∃ b f c, s.writeIn a n v = { s with inBuf := b, faults := f, inputChanged := c } ∧
      (s.fsm = .idle → f = s.faults ∧ c = s.inputChanged) ∧
      ∀ w, s.fsm = .exec w → f = Fault.hazardInputWrite s.host.line :: s.faults ∧ c = true := by
  rcases s.idle_or_exec with hf | ⟨w, hf⟩
  · exact ⟨_, _, _, State.writeIn_idle hf a n v, fun _ => ⟨rfl, rfl⟩, fun w h => (nomatch hf.symm.trans h)⟩
  · exact ⟨_, _, _, State.writeIn_exec hf a n v, fun h => (nomatch hf.symm.trans h), fun _ _ => ⟨rfl, rfl⟩⟩

/-- Settles O53: the bytes of the word written are those `writeBytes_read` gives, and a word read is its bytes. -/
theorem hostPortByteOrder : Obligations.HostPortByteOrder := by
  intro s m v hc hm
  have hword := State.hostWrite_inBuf hc (j := 0) hm (.inr ⟨rfl, rfl⟩) v
  have hbyte (j : Nat) (hj : j < 4) := State.hostWrite_inBuf hc hm (.inl ⟨rfl, hj⟩) v
  have hmem (a n : Nat) : 4 * m < (s.hostWrite a n v).cfg.bufBytes := by rwa [State.hostWrite_cfg]
  have hwritten : ∀ j, j < 4 →
      (s.hostWrite (0x10000 + 4 * m) 4 v).inBuf.read (4 * m + j) = some (v.extractLsb' (8 * j) 8) := by
    intro j hj
    refine (congrArg (·.read (4 * m + j)) hword).trans ?_
    rw [writeBytes_read _ _ _ (.inr rfl), if_pos (by omega), Nat.add_zero, Nat.add_sub_cancel_left]
  refine ⟨hwritten, ?_, fun a ha => ?_, fun j hj => ?_, fun j a hj ha => ?_, fun j n hn => ?_⟩
  · exact eq_of_leByte fun j hj => State.readValue_in_byte (hmem _ _) hj (hwritten j hj)
  · refine (congrArg (·.read a) hword).trans ?_
    rw [writeBytes_read _ _ _ (.inr rfl), if_neg (by omega)]
  · refine State.readValue_in_byte (hmem _ _) hj ?_
    rw [hbyte j hj, writeBytes_read _ _ _ (.inl rfl), if_pos (by omega), Nat.sub_self]
  · rw [hbyte j hj, writeBytes_read _ _ _ (.inl rfl), if_neg (by omega)]
  · have halign := hc.1
    rw [State.hostWrite_in (legalAccess_in hc hm hn) (by omega)]
    exact s.writeIn_frame _ n v

/-- While the core is idle a byte write to IN_BUF writes that byte (R75). -/
theorem State.hostWrite_byte {s : State} (hc : s.cfg.legal) (hf : s.fsm = .idle) {m j : Nat}
    (hm : 4 * m < s.cfg.bufBytes) (hj : j < 4) (b : Byte) :
    s.hostWrite (offIn + (4 * m + j)) 1 (b.setWidth 32) = { s with inBuf := s.inBuf.write (4 * m + j) b } := by
  have halign := hc.1
  have hlow : leByte (b.setWidth 32) 0 = b := by
    have := b.isLt
    simp only [leByte, BitVec.toNat_eq, BitVec.extractLsb'_toNat, BitVec.toNat_setWidth, Nat.mul_zero,
      Nat.shiftRight_zero]
    omega
  rw [show offIn = 0x10000 from rfl, State.hostWrite_in (legalAccess_in hc hm (.inl ⟨rfl, hj⟩)) (by omega),
    State.writeIn_idle hf, show offIn = 0x10000 from rfl, Nat.add_sub_cancel_left, writeBytes, if_pos rfl, hlow]

/-- A 32-bit write is four byte writes, low byte first (R75). -/
theorem writeBytes_leWord (m : Mem) (i : Nat) (b0 b1 b2 b3 : Byte) :
    writeBytes m i 4 (leWord b0 b1 b2 b3) =
      (((m.write i b0).write (i + 1) b1).write (i + 2) b2).write (i + 3) b3 := by
  rw [writeBytes, if_neg (by decide), leByte_leWord_0, leByte_leWord_1, leByte_leWord_2, leByte_leWord_3]

/-- Settles O54: four byte writes are the four writes of which a word write consists. -/
theorem loadByBytesOrByWord : Obligations.LoadByBytesOrByWord := by
  intro s m b0 b1 b2 b3 hc hf hm
  have hlegal : legalAccess s.cfg (0x10000 + 4 * m) 4 = true := legalAccess_in hc (j := 0) hm (.inr ⟨rfl, rfl⟩)
  have hbyte (buf : Mem) (j : Nat) (hj : j < 4) (b : Byte) :
      ({ s with inBuf := buf } : State).hostWrite (offIn + (4 * m + j)) 1 (b.setWidth 32) =
        { s with inBuf := buf.write (4 * m + j) b } :=
    State.hostWrite_byte (s := { s with inBuf := buf }) hc hf hm hj b
  have hload : Sys2Proof.Claims.afterWrites s (load (offIn + 4 * m) [b0, b1, b2, b3]) =
      { s with inBuf := writeBytes s.inBuf (4 * m) 4 (leWord b0 b1 b2 b3) } := by
    rw [writeBytes_leWord, ← hbyte _ 3 (by decide) b3, ← hbyte _ 2 (by decide) b2, ← hbyte _ 1 (by decide) b1]
    exact congrArg
      (fun u : State => ((u.hostWrite (offIn + (4 * m + 1)) 1 (b1.setWidth 32)).hostWrite (offIn + (4 * m + 2)) 1
        (b2.setWidth 32)).hostWrite (offIn + (4 * m + 3)) 1 (b3.setWidth 32)) (hbyte s.inBuf 0 (by decide) b0)
  have hword : s.hostWrite (0x10000 + 4 * m) 4 (leWord b0 b1 b2 b3) =
      { s with inBuf := writeBytes s.inBuf (4 * m) 4 (leWord b0 b1 b2 b3) } := by
    rw [State.hostWrite_in hlegal (by omega), State.writeIn_idle hf, show offIn = 0x10000 from rfl,
      Nat.add_sub_cancel_left]
  exact hload.trans hword.symm

/-! ## STATUS and reset -/

/-- The layout of a STATUS word (R40). -/
theorem status_fields : ∀ (code : BitVec 4) (cv err done busy : Bool),
    let w := code.setWidth 32 <<< 4 ||| flagBit cv 3 ||| flagBit err 2 ||| flagBit done 1 ||| flagBit busy 0
    w.getLsbD 0 = busy ∧ w.getLsbD 1 = done ∧ w.getLsbD 2 = err ∧ w.getLsbD 3 = cv ∧ w.extractLsb' 4 4 = code ∧
      w.extractLsb' 8 24 = 0 := by decide +kernel

/-- Settles O55: STATUS is put together from its fields, and no two of them overlap. -/
theorem statusLayout : Obligations.StatusLayout := by
  intro s
  obtain ⟨hbusy, hdone, herr, hcv, hcode, hrest⟩ := status_fields s.errCode s.inst.cv s.err s.done s.busy
  exact ⟨by rw [← s.busy_iff, ← hbusy]; rfl, hdone, herr, hcv, hcode, hrest, rfl⟩

/-- STATUS is 0 when each of its parts is (R40). -/
theorem State.status_eq_zero {s : State} (hcode : s.errCode = 0) (hcv : s.inst.cv = false) (herr : s.err = false)
    (hdone : s.done = false) (hf : s.fsm = .idle) : s.status = 0 := by
  rw [State.status, hcode, hcv, herr, hdone, State.busy_of_idle s hf]
  decide

/-- A step whose turn is the reset is the reset (R400). -/
theorem step_reset {s : State} (h : s.nextTurn = .reset) : step s = .next s.turnTaken.onReset := by
  rw [step, h]
  rfl

/-- Settles O56: the reset values, field by field. -/
theorem resetLeaves : Obligations.ResetLeaves := by
  obtain ⟨hkey, hiv, hw, hcv⟩ := cleared_zero
  refine ⟨fun s t ht => ?_, fun s => ⟨step_reset, rfl, rfl, rfl⟩⟩
  rcases ht with rfl | rfl <;>
    exact ⟨hkey, hiv, hw, hcv, rfl, State.status_eq_zero rfl rfl rfl rfl rfl, rfl, rfl, rfl, rfl, fun _ => rfl,
      fun _ => rfl⟩

end Sys2Proof.Machine
end

section
/-!
The steps of the machine: whose turn it is and what each turn does (spec/00_scope.md R13, spec/30_encoding.md R118 to
R131, spec/70_reset_and_hazards.md R400, R421), that every command completes, and what no step does.
-/

namespace Sys2Proof.Machine

/-! ## Turns -/

theorem step_host {s : State} (h : s.nextTurn = .host) : step s = .next s.turnTaken.hostTurn := by
  rw [step, h]
  rfl

theorem step_core {s : State} (h : s.nextTurn = .core) : step s = s.turnTaken.coreTurn := by
  rw [step, h]
  rfl

/-- The core's turn does nothing while the core is idle. -/
theorem State.coreTurn_idle {s : State} (h : s.fsm = .idle) : s.coreTurn = .next s := by
  rw [State.coreTurn, h]

/-- The core's turn runs the command it accepted (R118). -/
theorem State.coreTurn_ok {s : State} {w : Word} {i : Instr} (hf : s.fsm = .exec w) (hw : decode w = .ok i) :
    s.coreTurn = exec i s := by
  simp only [State.coreTurn, hf, hw]

/-- Settles O45: a step is the turn taken off the list and performed. -/
theorem stepRunsTheAcceptedCommand : Obligations.StepRunsTheAcceptedCommand := by
  refine ⟨fun s w i ht hf hw => (step_core ht).trans (State.coreTurn_ok (s := s.turnTaken) hf hw), fun s w i hw => ?_,
    fun s => ⟨fun h => ⟨step_core h, fun hf => (step_core h).trans (State.coreTurn_idle (s := s.turnTaken) hf)⟩,
      step_reset, fun t ts h => ⟨by rw [State.nextTurn, h], by rw [State.turnTaken, h]; rfl⟩,
      fun h => ⟨by rw [State.nextTurn, h], by rw [State.turnTaken, h, List.tail_nil, ← h]⟩⟩⟩
  have hword : s.withFetchWord 32 w.toNat = { s.accept w with turns := .core :: s.turns } := by
    rw [State.withFetchWord, Nat.mod_eq_of_lt w.isLt, BitVec.ofNat_toNat, BitVec.setWidth_eq]
  rw [hword]
  exact (step_core rfl).trans (State.coreTurn_ok (s := s.accept w) rfl hw)

/-- Everything a step can do: the host's turn, a reset, or the core's turn, which waits, runs the command accepted, or
refuses the word. -/
theorem step_cases {s t : State} (h : step s = .next t) :
    (s.nextTurn = .host ∧ t = s.turnTaken.hostTurn) ∨
    (s.nextTurn = .reset ∧ t = s.turnTaken.onReset) ∨
    (s.nextTurn = .core ∧ s.fsm = .idle ∧ t = s.turnTaken) ∨
    (s.nextTurn = .core ∧ ∃ w i, s.fsm = .exec w ∧ decode w = .ok i ∧ exec i s.turnTaken = .next t) ∨
    (s.nextTurn = .core ∧ ∃ w, s.fsm = .exec w ∧ (¬∃ i, decode w = .ok i) ∧
      t = s.turnTaken.finish (some .illegalCommand)) := by
  cases hturn : s.nextTurn with
  | host => exact .inl ⟨rfl, Host.Outcome.next.inj (h.symm.trans (step_host hturn))⟩
  | reset => exact .inr (.inl ⟨rfl, Host.Outcome.next.inj (h.symm.trans (step_reset hturn))⟩)
  | core =>
    rw [step_core hturn] at h
    rcases s.idle_or_exec with hf | ⟨w, hf⟩
    · rw [State.coreTurn_idle (s := s.turnTaken) hf] at h
      exact .inr (.inr (.inl ⟨rfl, hf, (Host.Outcome.next.inj h).symm⟩))
    · by_cases hw : ∃ i, decode w = .ok i
      · obtain ⟨i, hi⟩ := hw
        rw [State.coreTurn_ok (s := s.turnTaken) hf hi] at h
        exact .inr (.inr (.inr (.inl ⟨rfl, w, i, hf, hi, h⟩)))
      · rw [State.coreTurn_illegal (s := s.turnTaken) hf hw] at h
        exact .inr (.inr (.inr (.inr ⟨rfl, w, hf, hw, (Host.Outcome.next.inj h).symm⟩)))

/-! ## Completion (R121) -/

/-- Every command answers a next state. -/
theorem exec_next (i : Instr) (s : State) : ∃ t, exec i s = .next t := by
  rcases exec_outcomes i s with ⟨-, hx⟩ | ⟨-, hx⟩ | ⟨e, -, -, hx⟩ | ⟨-, hx⟩ | ⟨a, b, r, k, -, hx⟩ <;>
    exact ⟨_, hx⟩

/-- A command that has run leaves the core idle with DONE = 1. -/
theorem exec_completes {i : Instr} {s t : State} (h : exec i s = .next t) : t.fsm = .idle ∧ t.done = true := by
  rcases onlyListedErrors i s t h with ⟨hidle, hdone, -⟩ | ⟨-, -, hidle, hdone, -⟩ <;> exact ⟨hidle, hdone⟩

/-- The core's turn completes the word it runs. -/
theorem State.coreTurn_completes {s : State} {w : Word} (hf : s.fsm = .exec w) :
    ∃ t, s.coreTurn = .next t ∧ t.fsm = .idle ∧ t.done = true := by
  by_cases hw : ∃ i, decode w = .ok i
  · obtain ⟨i, hi⟩ := hw
    obtain ⟨t, ht⟩ := exec_next i s
    exact ⟨t, (State.coreTurn_ok hf hi).trans ht, exec_completes ht⟩
  · exact ⟨_, State.coreTurn_illegal hf hw, rfl, rfl⟩

/-- Settles O46: `exec` answers a next state for every command, and every outcome of it is a completion. -/
theorem everyCommandCompletes : Obligations.EveryCommandCompletes := by
  refine ⟨fun s => ?_, fun s w => State.coreTurn_completes⟩
  cases hturn : s.nextTurn with
  | host => exact ⟨_, step_host hturn⟩
  | reset => exact ⟨_, step_reset hturn⟩
  | core =>
    rcases s.idle_or_exec with hf | ⟨w, hf⟩
    · exact ⟨_, (step_core hturn).trans (State.coreTurn_idle (s := s.turnTaken) hf)⟩
    · obtain ⟨t, ht, -⟩ := State.coreTurn_completes (s := s.turnTaken) hf
      exact ⟨t, (step_core hturn).trans ht⟩

/-! ## The host's turn (R130, R131) -/

theorem State.hostTurn_nil {s : State} (h : s.host.prog = []) : s.hostTurn = s := by
  rw [State.hostTurn, h]

theorem State.hostTurn_rd {s : State} {x : Name} {a n : Nat} {ls : List HostLine} (h : s.host.prog = .rd x a n :: ls) :
    s.hostTurn = (s.hostRead x a n).advance ls := by
  rw [State.hostTurn, h]

theorem State.hostTurn_wr {s : State} {a n : Nat} {v : HostValue} {ls : List HostLine}
    (h : s.host.prog = .wr a n v :: ls) : s.hostTurn = (s.hostWrite a n (s.valueOf v)).advance ls := by
  rw [State.hostTurn, h]

/-- `wait` stays on its line while BUSY = 1. -/
theorem State.hostTurn_wait_busy {s : State} {ls : List HostLine} (h : s.host.prog = .wait :: ls) (hb : s.busy = true) :
    s.hostTurn = s.hostRead waitName offStatus 4 := by
  rw [State.hostTurn, h]
  exact if_pos hb

/-- `wait` moves on when BUSY = 0. -/
theorem State.hostTurn_wait_idle {s : State} {ls : List HostLine} (h : s.host.prog = .wait :: ls)
    (hb : s.busy = false) : s.hostTurn = (s.hostRead waitName offStatus 4).advance ls := by
  rw [State.hostTurn, h]
  exact if_neg (by simp [hb])

/-- A name stands for the newest response of that name. -/
theorem State.valueOf_newest {s : State} {newer older : List Response} {r : Response}
    (h : s.host.responses = newer ++ r :: older) (hnewer : ∀ q ∈ newer, q.name ≠ r.name) :
    s.valueOf (.name r.name) = r.value := by
  have hskip : newer.find? (fun q => q.name == r.name) = none :=
    List.find?_eq_none.2 fun q hq => by simpa using hnewer q hq
  simp [State.valueOf, h, List.find?_append, hskip]

/-- Settles O48: each kind of line has its equation. -/
theorem hostTurnPerformsTheNextLine : Obligations.HostTurnPerformsTheNextLine := by
  intro s ls ht
  have hstep := step_host ht
  refine ⟨fun a n v h => ?_, fun x a n h => ?_, fun h hb => ?_, fun h hb => ?_, fun h => ?_, fun v => rfl,
    fun newer r older => State.valueOf_newest, fun t => rfl⟩
  · rw [hstep, State.hostTurn_wr (s := s.turnTaken) h]
    rfl
  · rw [hstep, State.hostTurn_rd (s := s.turnTaken) h]
  · rw [State.hostTurn_wait_busy (s := s.turnTaken) h hb] at hstep
    exact ⟨hstep, _, hstep, (State.hostRead_prog _ _ _ _).trans h⟩
  · rw [State.hostTurn_wait_idle (s := s.turnTaken) h hb] at hstep
    exact ⟨hstep, _, hstep, rfl⟩
  · rw [hstep, State.hostTurn_nil (s := s.turnTaken) h]

/-- Everything a host's turn can do: nothing, or an access, after which the host stays on its line or moves on. -/
theorem State.hostTurn_cases (s : State) :
    s.hostTurn = s ∨
    (∃ x a n, s.hostTurn = s.hostRead x a n) ∨
    (∃ x a n ls, s.hostTurn = (s.hostRead x a n).advance ls) ∨
    ∃ a n v ls, s.hostTurn = (s.hostWrite a n v).advance ls := by
  rcases h : s.host.prog with _ | ⟨⟨x, a, n⟩ | ⟨a, n, v⟩ | _, ls⟩
  · exact .inl (State.hostTurn_nil h)
  · exact .inr (.inr (.inl ⟨x, a, n, ls, State.hostTurn_rd h⟩))
  · exact .inr (.inr (.inr ⟨a, n, _, ls, State.hostTurn_wr h⟩))
  · cases hb : s.busy with
    | true => exact .inr (.inl ⟨_, _, _, State.hostTurn_wait_busy h hb⟩)
    | false => exact .inr (.inr (.inl ⟨_, _, _, ls, State.hostTurn_wait_idle h hb⟩))

/-! ## KEY, IV, W and CV (R188, R400) -/

theorem State.hostTurn_inst (s : State) : s.hostTurn.inst = s.inst := by
  rcases s.hostTurn_cases with h | ⟨x, a, n, h⟩ | ⟨x, a, n, ls, h⟩ | ⟨a, n, v, ls, h⟩ <;> rw [h]
  · exact s.hostRead_inst x a n
  · exact s.hostRead_inst x a n
  · exact s.hostWrite_inst a n v

/-- Settles O40: host accesses and the other commands keep KEY, IV, W and CV. -/
theorem onlyNewCipherChangesTheInstance : Obligations.OnlyNewCipherChangesTheInstance := by
  intro s t h hne
  rcases step_cases h with ⟨-, rfl⟩ | ⟨hturn, -⟩ | ⟨-, -, rfl⟩ | ⟨hturn, w, i, hf, hi, hx⟩ | ⟨-, w, -, -, rfl⟩
  · exact absurd s.turnTaken.hostTurn_inst hne
  · exact .inl hturn
  · exact absurd rfl hne
  · obtain ⟨-, hkeep, -⟩ := commandsKeepTheWriteMap i s.turnTaken t hx
    refine .inr ⟨hturn, w, ?_⟩
    cases i with
    | newCipher klen ivlen => exact ⟨klen, ivlen, hf, hi⟩
    | _ => exact absurd (hkeep rfl) hne
  · exact absurd rfl hne

/-! ## Recorded faults (R79, R411, R413) -/

theorem State.hostRead_faults (s : State) (x : Name) (a n : Nat) :
    ∃ new, (s.hostRead x a n).faults = new ++ s.faults := by
  cases h : legalAccess s.cfg a n with
  | true => exact ⟨[], by rw [State.hostRead_legal x h]; rfl⟩
  | false => exact ⟨[_], by rw [State.hostRead_illegal x h]; rfl⟩

theorem State.inputHazard_faults (s : State) : ∃ new, s.inputHazard.faults = new ++ s.faults := by
  rcases s.idle_or_exec with hf | ⟨w, hf⟩
  · exact ⟨[], by rw [State.inputHazard_idle hf]; rfl⟩
  · exact ⟨[_], by rw [State.inputHazard_exec hf]; rfl⟩

/-- Everything a host write can do: record a bus error, offer a command, write the input, or nothing (R77). -/
theorem State.hostWrite_cases (s : State) (a n : Nat) (v : Word) :
    s.hostWrite a n v = s.record (.busError s.host.line) ∨
    s.hostWrite a n v = s.writeCmd v ∨
    s.hostWrite a n v = s.writeInLen v ∨
    (legalAccess s.cfg a n = true ∧ inWindow s.cfg a = true ∧ s.hostWrite a n v = s.writeIn a n v) ∨
    s.hostWrite a n v = s := by
  unfold State.hostWrite
  split_ifs with hlegal hcmd hlen hin
  · exact .inr (.inl rfl)
  · exact .inr (.inr (.inl rfl))
  · exact .inr (.inr (.inr (.inl ⟨hlegal, hin, rfl⟩)))
  · exact .inr (.inr (.inr (.inr rfl)))
  · exact .inl rfl

theorem State.hostWrite_faults (s : State) (a n : Nat) (v : Word) :
    ∃ new, (s.hostWrite a n v).faults = new ++ s.faults := by
  rcases s.hostWrite_cases a n v with h | h | h | ⟨-, -, h⟩ | h <;> rw [h]
  · exact ⟨[_], rfl⟩
  · rcases s.idle_or_exec with hf | ⟨w, hf⟩
    · exact ⟨[], by rw [State.writeCmd_idle hf]; rfl⟩
    · exact ⟨[], by rw [State.writeCmd_busy hf]; rfl⟩
  · exact s.inputHazard_faults
  · exact s.inputHazard_faults
  · exact ⟨[], rfl⟩

theorem State.hostTurn_faults (s : State) : ∃ new, s.hostTurn.faults = new ++ s.faults := by
  rcases s.hostTurn_cases with h | ⟨x, a, n, h⟩ | ⟨x, a, n, ls, h⟩ | ⟨a, n, v, ls, h⟩ <;> rw [h]
  · exact ⟨[], rfl⟩
  · exact s.hostRead_faults x a n
  · exact s.hostRead_faults x a n
  · exact s.hostWrite_faults a n v

theorem State.readInput_faults_append (s : State) (i : Instr) (k : Nat) :
    ∃ new, (s.readInput i k).faults = new ++ s.faults := by
  rw [State.readInput_faults]
  split
  · exact ⟨[_], rfl⟩
  · exact ⟨[], rfl⟩

theorem exec_faults {i : Instr} {s t : State} (h : exec i s = .next t) : ∃ new, t.faults = new ++ s.faults := by
  rcases exec_outcomes i s with ⟨-, hx⟩ | ⟨-, hx⟩ | ⟨e, -, -, hx⟩ | ⟨-, hx⟩ | ⟨a, b, r, k, -, hx⟩ <;>
    obtain rfl := eq_of_exec h hx
  · rw [runOut_eq, State.finish_faults, State.putOut_faults, State.putWork_faults]
    exact s.readInput_faults_append i _
  · exact ⟨[], rfl⟩
  · exact ⟨[], rfl⟩
  · rw [State.finish_faults, State.putInst_faults]
    exact s.readInput_faults_append _ 48
  · exact ⟨[], rfl⟩

/-- Settles O44: an access or a command adds faults at the front, and nothing takes one away. -/
theorem faultsAreNeverCleared : Obligations.FaultsAreNeverCleared := by
  intro s t h
  rcases step_cases h with ⟨-, rfl⟩ | ⟨-, rfl⟩ | ⟨-, -, rfl⟩ | ⟨-, w, i, -, -, hx⟩ | ⟨-, w, -, -, rfl⟩
  · exact s.turnTaken.hostTurn_faults
  · exact ⟨[], rfl⟩
  · exact ⟨[], rfl⟩
  · exact exec_faults (s := s.turnTaken) hx
  · exact ⟨[], rfl⟩

end Sys2Proof.Machine
end

section
/-!
Noninterference: the working registers are never observed (spec/10_state.md R35 to R37, R46), and no host access reads
or writes KEY, IV or W (R31 to R34, R380). Both are the same argument about two states that differ in what the host port
does not show.
-/

namespace Sys2Proof.Machine

/-- The state with its working registers and its KEY, IV, W and CV replaced. -/
def State.withHidden (s : State) (k : Work) (c : CipherInst) : State := { s with work := k, inst := c }

/-! ## The host's turn -/

section
variable {s : State} (k : Work) {c : CipherInst} (hcv : c.cv = s.inst.cv)
include hcv

/-- STATUS shows CV and nothing of KEY, IV and W (R40). -/
theorem State.status_withHidden : (s.withHidden k c).status = s.status := by
  simp only [State.status, State.withHidden, State.busy, hcv]

theorem State.readValue_withHidden (a n : Nat) : (s.withHidden k c).readValue a n = s.readValue a n := by
  have hcsr : (s.withHidden k c).csrRead a = s.csrRead a := by
    rw [State.csrRead, State.status_withHidden k hcv]
    rfl
  unfold State.readValue
  rw [hcsr]
  rfl

theorem State.hostRead_withHidden (x : Name) (a n : Nat) :
    (s.withHidden k c).hostRead x a n = (s.hostRead x a n).withHidden k c := by
  cases h : legalAccess s.cfg a n with
  | true =>
    rw [State.hostRead_legal x h, State.hostRead_legal (s := s.withHidden k c) x h, State.readValue_withHidden k hcv]
    rfl
  | false =>
    rw [State.hostRead_illegal x h, State.hostRead_illegal (s := s.withHidden k c) x h]
    rfl

omit hcv

variable (s c) in
theorem State.inputHazard_withHidden : (s.withHidden k c).inputHazard = s.inputHazard.withHidden k c := by
  rcases s.idle_or_exec with hf | ⟨w, hf⟩
  · rw [State.inputHazard_idle hf, State.inputHazard_idle (s := s.withHidden k c) hf]
  · rw [State.inputHazard_exec hf, State.inputHazard_exec (s := s.withHidden k c) hf]
    rfl

variable (s c) in
theorem State.writeCmd_withHidden (v : Word) : (s.withHidden k c).writeCmd v = (s.writeCmd v).withHidden k c := by
  rcases s.idle_or_exec with hf | ⟨w, hf⟩
  · rw [State.writeCmd_idle hf, State.writeCmd_idle (s := s.withHidden k c) hf]
    rfl
  · rw [State.writeCmd_busy hf, State.writeCmd_busy (s := s.withHidden k c) hf]

variable (s c) in
theorem State.hostWrite_withHidden (a n : Nat) (v : Word) :
    (s.withHidden k c).hostWrite a n v = (s.hostWrite a n v).withHidden k c := by
  have hcfg : (s.withHidden k c).cfg = s.cfg := rfl
  have hlen : (s.withHidden k c).writeInLen v = (s.writeInLen v).withHidden k c := by
    rw [State.writeInLen, State.inputHazard_withHidden]
    rfl
  have hin : (s.withHidden k c).writeIn a n v = (s.writeIn a n v).withHidden k c := by
    rw [State.writeIn, State.inputHazard_withHidden]
    rfl
  unfold State.hostWrite
  rw [hcfg, State.writeCmd_withHidden, hlen, hin]
  split_ifs <;> rfl

include hcv

/-- The host's turn neither reads nor changes what is hidden. -/
theorem State.hostTurn_withHidden : (s.withHidden k c).hostTurn = s.hostTurn.withHidden k c := by
  rcases h : s.host.prog with _ | ⟨⟨x, a, n⟩ | ⟨a, n, v⟩ | _, ls⟩
  · rw [State.hostTurn_nil h, State.hostTurn_nil (s := s.withHidden k c) h]
  · rw [State.hostTurn_rd h, State.hostTurn_rd (s := s.withHidden k c) h, State.hostRead_withHidden k hcv]
    rfl
  · rw [State.hostTurn_wr h, State.hostTurn_wr (s := s.withHidden k c) h, State.hostWrite_withHidden]
    rfl
  · cases hb : s.busy with
    | true =>
      rw [State.hostTurn_wait_busy h hb, State.hostTurn_wait_busy (s := s.withHidden k c) h hb,
        State.hostRead_withHidden k hcv]
    | false =>
      rw [State.hostTurn_wait_idle h hb, State.hostTurn_wait_idle (s := s.withHidden k c) h hb,
        State.hostRead_withHidden k hcv]
      rfl

end

/-- The host's turn leaves the working registers and KEY, IV, W and CV as they were. -/
theorem State.hostTurn_hidden (s : State) : s.hostTurn = s.hostTurn.withHidden s.work s.inst :=
  State.hostTurn_withHidden (s := s) s.work (c := s.inst) rfl

theorem State.hostTurn_work (s : State) : s.hostTurn.work = s.work := by
  rw [s.hostTurn_hidden]
  rfl

/-- Settles O60: no host access writes the working registers either, so hiding those too changes nothing. -/
theorem keyMaterialIsPrivate : Obligations.KeyMaterialIsPrivate := by
  intro s k iv w
  refine (State.hostTurn_withHidden (s := s) s.work (c := ⟨k, iv, w, s.inst.cv⟩) rfl).trans ?_
  rw [State.withHidden, ← s.hostTurn_work]

/-! ## Commands -/

/-- A check of a rule ends in the same outcome whatever the working registers, when the rest of the rule does. -/
theorem check_outcome {p : Prop} [Decidable p] {k k' : Work} {o : Except ErrCode (List Byte)}
    {r r' : Work × Except ErrCode (List Byte)} (h : r.2 = r'.2) :
    (if p then (k, o) else r).2 = (if p then (k', o) else r').2 := by
  split_ifs
  · rfl
  · exact h

/-- The outcome of a rule does not depend on the working registers it is given. -/
theorem ruleOf_putWork (i : Instr) (c : Ctx) (k : Work) : (ruleOf i { c with work := k }).2 = (ruleOf i c).2 := by
  cases i with
  | encBlock | decBlock | cbcEnc | cbcDec => exact check_outcome (check_outcome (check_outcome rfl))
  | pad | b64Enc => exact check_outcome (check_outcome rfl)
  | b64Dec => exact check_outcome rfl
  | unpad =>
    refine check_outcome ?_
    dsimp only
    cases Machine.unpad c.inp <;> rfl
  | encrypt => exact check_outcome (check_outcome (check_outcome (check_outcome rfl)))
  | decrypt =>
    refine check_outcome (check_outcome (check_outcome (check_outcome ?_)))
    dsimp only
    cases Machine.unpad (cbcDecrypt c.inst.w c.inst.iv (b64Decode c.inp)) <;> rfl
  | nop | newCipher | gfmul => rfl

theorem State.readInput_putWork (s : State) (k : Work) (i : Instr) (n : Nat) :
    (s.putWork k).readInput i n = (s.readInput i n).putWork k := by
  have hrange : (s.putWork k).unwrittenBelow n = s.unwrittenBelow n := rfl
  unfold State.readInput
  rw [hrange, State.putWork_inputChanged]
  split_ifs <;> rfl

/-- A command run from two states that differ in the working registers leads to two such states. -/
theorem exec_putWork {i : Instr} {s t : State} (h : exec i s = .next t) (k : Work) :
    ∃ k', exec i (s.putWork k) = .next (t.putWork k') := by
  by_cases hi : instrIsOut i = true
  · obtain rfl := eq_of_exec h (exec_out hi s)
    refine ⟨(ruleOf i (s.putWork k).ctx).1, ?_⟩
    rw [exec_out hi, runOut_eq, runOut_eq, State.readInput_putWork]
    have houtcome : (ruleOf i (s.putWork k).ctx).2 = (ruleOf i s.ctx).2 := ruleOf_putWork i s.ctx k
    rw [houtcome]
    rfl
  · refine ⟨k, ?_⟩
    cases i
    case nop => obtain rfl := eq_of_exec h rfl; rfl
    case newCipher klen ivlen =>
      by_cases hk : klen = 32
      · subst hk
        by_cases hv : ivlen = 16
        · subst hv
          have hbytes : (s.putWork k).inBytes 48 = s.inBytes 48 := rfl
          obtain rfl := eq_of_exec h (execNewCipher_legal s)
          rw [execNewCipher_legal, hbytes, State.readInput_putWork]
          rfl
        · obtain rfl := eq_of_exec h (execNewCipher_badIv s hv)
          exact execNewCipher_badIv (s.putWork k) hv
      · obtain rfl := eq_of_exec h (execNewCipher_badKey s hk ivlen)
        exact execNewCipher_badKey (s.putWork k) hk ivlen
    case gfmul a b =>
      cases hc : s.inputChanged with
      | false =>
        obtain rfl := eq_of_exec h (execGfmul_closed hc a b)
        exact execGfmul_closed (s := s.putWork k) hc a b
      | true =>
        obtain rfl := eq_of_exec h (execGfmul_open hc a b)
        exact execGfmul_open (s := s.putWork k) hc a b
    all_goals exact absurd rfl hi

/-- Settles O59: the host's turn does not see the working registers, a command's outcome does not depend on them, and a
reset overwrites them. -/
theorem workingRegistersAreNeverObserved : Obligations.WorkingRegistersAreNeverObserved := by
  intro s t k h
  rcases step_cases h with ⟨hturn, rfl⟩ | ⟨hturn, rfl⟩ | ⟨hturn, hf, rfl⟩ | ⟨hturn, w, i, hf, hi, hx⟩ |
    ⟨hturn, w, hf, hw, rfl⟩
  · refine ⟨k, (step_host (s := s.putWork k) hturn).trans (congrArg Host.Outcome.next ?_)⟩
    refine (State.hostTurn_withHidden (s := s.turnTaken) k (c := s.inst) rfl).trans ?_
    rw [State.withHidden, ← s.turnTaken_inst, ← s.turnTaken.hostTurn_inst]
  · exact ⟨s.turnTaken.onReset.work, step_reset (s := s.putWork k) hturn⟩
  · exact ⟨k, (step_core (s := s.putWork k) hturn).trans (State.coreTurn_idle (s := s.turnTaken.putWork k) hf)⟩
  · obtain ⟨k', hk⟩ := exec_putWork hx k
    have hturn' := (step_core (s := s.putWork k) hturn).trans (State.coreTurn_ok (s := s.turnTaken.putWork k) hf hi)
    exact ⟨k', hturn'.trans hk⟩
  · exact ⟨k, (step_core (s := s.putWork k) hturn).trans (State.coreTurn_illegal (s := s.turnTaken.putWork k) hf hw)⟩

end Sys2Proof.Machine
end

section
/-!
The invariant of the machine (`State.Inv`): it holds at reset, and each operation of a step keeps it, so every step does
(spec/10_state.md R30 to R47, spec/20_memory.md R72, R84, spec/70_reset_and_hazards.md R411).
-/

namespace Sys2Proof.Machine

/-! ## At reset -/

theorem resetWith_inv {c : Config} (hc : c.legal) : (State.resetWith c).Inv where
  config := hc
  buffers := ⟨Mem.wf_unwritten, Mem.wf_unwritten, rfl, .inl rfl, nofun, nofun⟩
  status := ⟨nofun, nofun, fun _ => rfl, by simp [State.resetWith]⟩
  inst := ⟨nofun, fun _ => rfl⟩
  outputs := ⟨Nat.zero_le _, by simp [State.resetWith], Nat.zero_le _, fun _ => rfl, nofun⟩
  command := ⟨nofun, nofun⟩

/-- Settles O57. -/
theorem invariantHoldsAtReset : Obligations.InvariantHoldsAtReset :=
  ⟨resetWith_inv (by decide), fun _ => resetWith_inv⟩

namespace State.Inv
variable {s : State} (h : s.Inv)
include h

/-- What a reset keeps is not in the invariant but for the buffer size (R400). -/
theorem onReset : s.onReset.Inv :=
  have hreset := resetWith_inv h.config
  ⟨hreset.config, hreset.buffers, hreset.status, hreset.inst, hreset.outputs, ⟨nofun, nofun⟩⟩

/-! ## The host's accesses -/

theorem turnTaken : s.turnTaken.Inv := ⟨h.config, h.buffers, h.status, h.inst, h.outputs, h.command⟩

theorem respond (x : Name) (v : Word) (b : Bool) : (s.respond x v b).Inv :=
  ⟨h.config, h.buffers, h.status, h.inst, h.outputs, h.command⟩

theorem drawn (k : Nat) : (s.drawn k).Inv := ⟨h.config, h.buffers, h.status, h.inst, h.outputs, h.command⟩

theorem advance (ls : List HostLine) : (s.advance ls).Inv :=
  ⟨h.config, h.buffers, h.status, h.inst, h.outputs, h.command⟩

theorem record (f : Fault) : (s.record f).Inv := by
  obtain ⟨hword, hopen⟩ := h.command
  refine ⟨h.config, h.buffers, h.status, h.inst, h.outputs, hword, fun hc => ?_⟩
  obtain ⟨hbusy, line, hline⟩ := hopen hc
  exact ⟨hbusy, line, List.mem_cons_of_mem f hline⟩

theorem hostRead (x : Name) (a n : Nat) : (s.hostRead x a n).Inv := by
  cases hl : legalAccess s.cfg a n with
  | true => rw [State.hostRead_legal x hl]; exact (h.respond x _ _).drawn _
  | false => rw [State.hostRead_illegal x hl]; exact (h.respond x _ _).record _

/-- An acceptance starts a BUSY period whose input nobody has written (R118). -/
theorem accept (v : Word) : (s.accept v).Inv :=
  ⟨h.config, h.buffers, ⟨fun _ => ⟨rfl, rfl, rfl⟩, nofun, fun _ => rfl, by simp⟩, h.inst, h.outputs,
    fun w hw => Fsm.exec.inj hw, nofun⟩

theorem writeCmd (v : Word) : (s.writeCmd v).Inv := by
  rcases s.idle_or_exec with hf | ⟨w, hf⟩
  · rw [State.writeCmd_idle hf]; exact h.accept v
  · rwa [State.writeCmd_busy hf]

/-- A write to the input while BUSY = 1 is recorded when the input becomes open (R411). -/
theorem inputHazard : s.inputHazard.Inv := by
  rcases s.idle_or_exec with hf | ⟨w, hf⟩
  · rwa [State.inputHazard_idle hf]
  · rw [State.inputHazard_exec hf]
    exact ⟨h.config, h.buffers, h.status, h.inst, h.outputs, h.command.1,
      fun _ => ⟨State.busy_of_exec s w hf, _, List.mem_cons_self⟩⟩

theorem writeInLen (v : Word) : (s.writeInLen v).Inv :=
  have hh := h.inputHazard
  ⟨hh.config, hh.buffers, hh.status, hh.inst, hh.outputs, hh.command⟩

/-- A legal access inside the window writes cells of the buffer (R78). -/
theorem writeIn {a n : Nat} (hl : legalAccess s.cfg a n = true) (hw : inWindow s.cfg a = true) (v : Word) :
    (s.writeIn a n v).Inv := by
  have hh := h.inputHazard
  obtain ⟨hwf, hwfOut, hunlisted, hout, hcells, hcellsOut⟩ := hh.buffers
  have halign := h.config.1
  have hwindow := inWindow_iff.1 hw
  have haccess := (legalAccesses s.cfg a n h.config).1 hl
  rw [State.inputHazard_inBuf] at hwf hunlisted hcells
  rw [State.inputHazard_cfg] at hcells
  refine ⟨hh.config, ⟨wf_writeBytes hwf _ _ _, hwfOut, (writeBytes_unlisted _ _ _ _).trans hunlisted, hout,
    fun c hc => ?_, hcellsOut⟩, hh.status, hh.inst, hh.outputs, hh.command⟩
  show c.1 < s.inputHazard.cfg.bufBytes
  rw [State.inputHazard_cfg]
  have hoff : offIn = 0x10000 := rfl
  rcases mem_writeBytes hc with hold | hfirst | ⟨hn, hlo, hhi⟩
  · exact hcells c hold
  · omega
  · omega

theorem hostWrite (a n : Nat) (v : Word) : (s.hostWrite a n v).Inv := by
  rcases s.hostWrite_cases a n v with hx | hx | hx | ⟨hl, hw, hx⟩ | hx <;> rw [hx]
  · exact h.record _
  · exact h.writeCmd v
  · exact h.writeInLen v
  · exact h.writeIn hl hw v
  · exact h

theorem hostTurn : s.hostTurn.Inv := by
  rcases s.hostTurn_cases with hx | ⟨x, a, n, hx⟩ | ⟨x, a, n, ls, hx⟩ | ⟨a, n, v, ls, hx⟩ <;> rw [hx]
  · exact h
  · exact h.hostRead x a n
  · exact (h.hostRead x a n).advance ls
  · exact (h.hostWrite a n v).advance ls

/-! ## Completions -/

/-- A completion writes a legal STATUS and closes the BUSY period (R120). -/
theorem finish (e : Option ErrCode) : (s.finish e).Inv := by
  have hcode : ∀ e : ErrCode, e.code ≠ 0 ∧ e.code.toNat ≤ 8 := fun e => by cases e <;> decide
  refine ⟨h.config, h.buffers, ⟨nofun, ?_⟩, h.inst, h.outputs, nofun, nofun⟩
  cases e with
  | none => exact ⟨nofun, fun _ => rfl, Nat.zero_le 8⟩
  | some e => exact ⟨fun _ => ⟨rfl, (hcode e).1⟩, nofun, (hcode e).2⟩

theorem putInst {c : CipherInst} (hc : (s.putInst c).InstanceSound) : (s.putInst c).Inv :=
  ⟨h.config, h.buffers, h.status, hc, h.outputs, h.command⟩

theorem putResult (r : Byte) : (s.putResult r).Inv := by
  obtain ⟨hlen, -, hrest⟩ := h.outputs
  exact ⟨h.config, h.buffers, h.status, h.inst, ⟨hlen, s.putResult_lt r, hrest⟩, h.command⟩

theorem readInput (i : Instr) (k : Nat) : (s.readInput i k).Inv := by
  unfold State.readInput
  split_ifs
  · exact (h.record _).drawn _
  · exact h.record _
  · exact h.drawn _
  · exact h

theorem putWork {k : Work} (hk : k.scratch.length ≤ s.cfg.bufBytes) : (s.putWork k).Inv := by
  obtain ⟨hlen, hresult, -, hout⟩ := h.outputs
  exact ⟨h.config, h.buffers, h.status, h.inst, ⟨hlen, hresult, hk, hout⟩, h.command⟩

/-- An output that fits is written in canonical form, its length in OUT_LEN (R111). -/
theorem putOut {out : List Byte} (ho : out.length ≤ s.cfg.bufBytes) : (s.putOut out).Inv := by
  obtain ⟨hwf, -, hunlisted, -, hcells, -⟩ := h.buffers
  obtain ⟨-, hresult, hscratch, -⟩ := h.outputs
  have hlen : (s.putOut out).outLen.toNat = out.length := outLen_toNat (ho.trans h.config.2.2)
  have hcell : ∀ c ∈ (s.putOut out).outBuf.cells, c.1 < out.length := fun c hc => by
    simpa using (mem_cellsFrom hc).2.1
  exact ⟨h.config, ⟨hwf, Mem.wf_zeroFilled out, hunlisted, .inr rfl, hcells, fun c hc => (hcell c hc).trans_le ho⟩,
    h.status, h.inst, ⟨hlen.trans_le ho, hresult, hscratch, nofun, fun c hc => hlen ▸ hcell c hc⟩, h.command⟩

end State.Inv

/-! ## The rules keep within the buffer size (R37, R366) -/

/-- An outcome of a rule fits in the buffers: SCRATCH and the output are no longer than BUF_BYTES. -/
def Fits (b : Nat) (r : Work × Except ErrCode (List Byte)) : Prop :=
  r.1.scratch.length ≤ b ∧ (outputOf r.2).length ≤ b

theorem fits_error {b : Nat} {k : Work} (hk : k.scratch.length ≤ b) (e : ErrCode) : Fits b (k, .error e) :=
  ⟨hk, Nat.zero_le b⟩

/-- A check whose failure is an error leaves the outcome of the rest. -/
theorem fits_check {b : Nat} {p : Prop} [Decidable p] {k : Work} (hk : k.scratch.length ≤ b) {e : ErrCode}
    {r : Work × Except ErrCode (List Byte)} (h : ¬p → Fits b r) : Fits b (if p then (k, .error e) else r) := by
  split_ifs with hp
  · exact fits_error hk e
  · exact h hp

section
variable {c : Ctx} (hwork : c.work.scratch.length ≤ c.buf) (hinp : c.n ≤ c.buf → c.inp.length = c.n)
include hwork

theorem encBlockRule_fits : Fits c.buf (encBlockRule c) :=
  fits_check hwork fun hn => fits_check hwork fun _ => fits_check hwork fun h16 =>
    ⟨hwork, by simp only [outputOf, Block.toBytes_length]; omega⟩

theorem decBlockRule_fits : Fits c.buf (decBlockRule c) :=
  fits_check hwork fun hn => fits_check hwork fun _ => fits_check hwork fun h16 =>
    ⟨hwork, by simp only [outputOf, Block.toBytes_length]; omega⟩

include hinp

theorem cbcEncRule_fits : Fits c.buf (cbcEncRule c) :=
  fits_check hwork fun hn => fits_check hwork fun _ => fits_check hwork fun _ =>
    ⟨hwork, by rw [outputOf, cbcEncrypt_length, hinp (by omega)]; omega⟩

theorem cbcDecRule_fits : Fits c.buf (cbcDecRule c) :=
  fits_check hwork fun hn => fits_check hwork fun _ => fits_check hwork fun _ =>
    ⟨hwork, by rw [outputOf, cbcDecrypt_length, hinp (by omega)]; omega⟩

theorem padRule_fits : Fits c.buf (padRule c) :=
  fits_check hwork fun hn => fits_check hwork fun hlong =>
    ⟨hwork, by rw [outputOf, pad_length, hinp (by omega)]; omega⟩

theorem unpadRule_fits : Fits c.buf (unpadRule c) :=
  fits_check hwork fun hn => by
    have hlen := hinp (by omega)
    cases hu : unpad c.inp with
    | none => exact fits_error hwork _
    | some e => exact ⟨hwork, by have := unpad_length hu; rw [outputOf]; omega⟩

theorem b64EncRule_fits : Fits c.buf (b64EncRule c) :=
  fits_check hwork fun hn => fits_check hwork fun hlong =>
    ⟨hwork, by rw [outputOf, b64Encode_length, hinp (by omega)]; omega⟩

theorem b64DecRule_fits : Fits c.buf (b64DecRule c) :=
  fits_check hwork fun hn => by
    have hlen := hinp (by omega)
    have hdecode := b64Decode_length_le c.inp
    exact ⟨hwork, by rw [outputOf]; omega⟩

/-- The raw ciphertext is shorter than its token. -/
theorem encryptRule_fits : Fits c.buf (encryptRule c) :=
  fits_check hwork fun hn => fits_check hwork fun _ => by
    split_ifs with h0 hlong
    · exact ⟨hwork, Nat.zero_le _⟩
    · exact fits_error hwork _
    · have hlen := hinp (by omega)
      have hraw : (cbcEncrypt c.inst.w c.inst.iv (pad c.inp)).length ≤ tokenLen c.n := by
        rw [cbcEncrypt_length, pad_length, hlen, tokenLen, b64Len]
        omega
      refine ⟨hraw.trans (by omega), ?_⟩
      rw [outputOf, token_length, hlen]
      omega

/-- Each stage of DECRYPT makes its input no longer. -/
theorem decryptRule_fits : Fits c.buf (decryptRule c) :=
  fits_check hwork fun hn => fits_check hwork fun _ => by
    split_ifs with h0
    · exact ⟨hwork, Nat.zero_le _⟩
    · have hlen := hinp (by omega)
      have hraw : (b64Decode c.inp).length ≤ c.buf := by
        have := b64Decode_length_le c.inp
        omega
      have hpadded : (cbcDecrypt c.inst.w c.inst.iv (b64Decode c.inp)).length ≤ c.buf := by
        rw [cbcDecrypt_length]
        omega
      refine fits_check hraw fun _ => ?_
      dsimp only
      cases hu : unpad (cbcDecrypt c.inst.w c.inst.iv (b64Decode c.inp)) with
      | none => exact fits_error hpadded _
      | some e => exact ⟨hpadded, (unpad_length hu).le.trans hpadded⟩

/-- The outcome of every rule fits. -/
theorem ruleOf_fits {i : Instr} (hi : instrIsOut i = true) : Fits c.buf (ruleOf i c) := by
  cases i with
  | encrypt => exact encryptRule_fits hwork hinp
  | decrypt => exact decryptRule_fits hwork hinp
  | encBlock => exact encBlockRule_fits hwork
  | decBlock => exact decBlockRule_fits hwork
  | cbcEnc => exact cbcEncRule_fits hwork hinp
  | cbcDec => exact cbcDecRule_fits hwork hinp
  | pad => exact padRule_fits hwork hinp
  | unpad => exact unpadRule_fits hwork hinp
  | b64Enc => exact b64EncRule_fits hwork hinp
  | b64Dec => exact b64DecRule_fits hwork hinp
  | nop | newCipher | gfmul => cases hi

end

/-! ## Every step -/

/-- NEW_CIPHER's W is the schedule of its KEY (R34). -/
theorem instanceOf_sound (s : State) (m : List Byte) : (s.putInst (instanceOf m)).InstanceSound :=
  ⟨fun _ => rfl, nofun⟩

theorem cleared_sound (s : State) : (s.putInst CipherInst.cleared).InstanceSound := ⟨nofun, fun _ => rfl⟩

theorem State.Inv.runOut {s : State} (h : s.Inv) {i : Instr} (hi : instrIsOut i = true) :
    (runOut i (ruleOf i) s).Inv := by
  obtain ⟨-, -, hscratch, -⟩ := h.outputs
  obtain ⟨hwork, hout⟩ := ruleOf_fits (c := s.ctx) hscratch State.input_length hi
  rw [runOut_eq]
  refine (((h.readInput i _).putWork ?_).putOut ?_).finish _
  · rwa [State.readInput_cfg]
  · rwa [State.putWork_cfg, State.readInput_cfg]

/-- Every command keeps the invariant. -/
theorem State.Inv.exec {s t : State} (h : s.Inv) {i : Instr} (hx : exec i s = .next t) : t.Inv := by
  rcases exec_outcomes i s with ⟨hi, hy⟩ | ⟨-, hy⟩ | ⟨e, -, -, hy⟩ | ⟨-, hy⟩ | ⟨a, b, r, k, -, hy⟩ <;>
    obtain rfl := eq_of_exec hx hy
  · exact h.runOut hi
  · exact h.finish _
  · exact (h.putInst (cleared_sound s)).finish _
  · exact ((h.readInput _ 48).putInst (instanceOf_sound _ _)).finish _
  · exact ((h.drawn k).putResult r).finish _

/-- Settles O58: each turn is made of operations that keep the invariant. -/
theorem invariantKept : Obligations.InvariantKept := by
  intro s t h hstep
  rcases step_cases hstep with ⟨-, rfl⟩ | ⟨-, rfl⟩ | ⟨-, -, rfl⟩ | ⟨-, w, i, -, -, hx⟩ | ⟨-, w, -, -, rfl⟩
  · exact h.turnTaken.hostTurn
  · exact h.turnTaken.onReset
  · exact h.turnTaken
  · exact h.turnTaken.exec hx
  · exact h.turnTaken.finish _

end Sys2Proof.Machine
end
